-- ==== Sys2Proof/Word.lean ====
section
/-! DEFINITION. The word of the FPFC: every register is 32 bits wide (spec/00_scope.md R7). -/

namespace Sys2Proof

/-- The contents of one FPFC register (R7, R20). -/
abbrev Word := BitVec 32

end Sys2Proof
end

