-- ==== Sys2Proof/Config.lean ====
section
/-! DEFINITION. What an implementation or its platform fixes and the spec leaves open (spec/00_scope.md R8): `BASE` and
`LATENCY`. Both are opaque: no proof can see a value, so a claim about them holds for every value. -/

namespace Sys2Proof

/-- `BASE / 64`. `BASE` is a multiple of 64 and otherwise open (R8, 93_implementation_defined.md I8). -/
opaque Config.baseBlock : Nat

/-- `BASE`, the host address of window offset 0 (R8, R50). -/
def Config.base : Nat := 64 * Config.baseBlock

/-- `LATENCY`, the cycles between the start of the CMD write of a word and its completion (R8, R220): a natural number,
hence finite. No rule reads it and no host can observe it, so nothing of the machine does (DEDUCED, log entry 6). -/
opaque Config.latency : Word → Nat

end Sys2Proof
end

