-- ==== Sys2Proof/Syntax.lean ====
section
/-! DEFINITION. The instructions of the FPFC: its four commands (spec/00_scope.md R3), one constructor per row of
spec/opcode_table.json. A command word has no immediate, register-number or mode field (R81), so no constructor has an
argument: the one operand of every command is the register ARG (R90). -/

namespace Sys2Proof

/-- The four commands (R3, R82). -/
inductive Instr where
  /-- FDEC: register code to frequency in Hz (R111). -/
  | fdec
  /-- FENC: frequency in Hz to register code (R112). -/
  | fenc
  /-- PPACK: preamble symbol count to packed byte and representable value (R152). -/
  | ppack
  /-- PUNPACK: packed byte to representable value (R153). -/
  | punpack
deriving DecidableEq, Repr

end Sys2Proof
end

