-- ==== Sys2Proof/WellFormed.lean ====
section
/-! DEFINITION. What is well formed. A command (`Instr`) has no operand field, so nothing about it can be ill formed
(spec/30_encoding.md R81); the two checks the spec makes are on the 32-bit word written to CMD (R83, R84). -/

namespace Sys2Proof

/-- Every command is well formed: it has no field that a check could refuse (R81). -/
def Instr.wellFormed : Instr → Bool
  | .fdec => true
  | .fenc => true
  | .ppack => true
  | .punpack => true

/-- The reserved bits 31..4 of a command word are 0 (R80, R84). -/
def rsvClear (d : Word) : Bool := d >>> 4 == 0#32

/-- The opcode, bits 3..0 of a command word, is one of the four assigned ones (R82, R83). -/
def opcAssigned (d : Word) : Bool := 1#32 ≤ d &&& 0xF#32 && d &&& 0xF#32 ≤ 4#32

/-- A command word that is one of the four legal ones (R85). -/
def cmdWordWellFormed (d : Word) : Bool := rsvClear d && opcAssigned d

end Sys2Proof
end

