-- ==== Sys2Proof/Decode.lean ====
section
/-! DEFINITION. The decoder of command words, total on all 2^32 of them and refusing by name (spec/30_encoding.md R80 to
R86), and after it the encoder (R82). -/

namespace Sys2Proof

/-- Why a command word is illegal (spec/60_exceptions.md R182). -/
inductive Cause where
  /-- RESERVED_OPCODE: bits 31..4 are 0 and the opcode is 0x0 or 0x5..0xF (R83). -/
  | reservedOpcode
  /-- RESERVED_BITS: bits 31..4 are not 0, whatever the opcode (R84). -/
  | reservedBits
deriving DecidableEq, Repr

/-- The code STATUS.ERRCAUSE records for a cause (R182). -/
def Cause.code : Cause → BitVec 4
  | .reservedOpcode => 1#4
  | .reservedBits => 2#4

/-- What a command word decodes to: exactly one command, or illegal with exactly one cause (R86). -/
inductive Decoded where
  | command (i : Instr)
  | illegal (c : Cause)
deriving DecidableEq, Repr

/-- `RSV = d[31:4]` (R81). -/
def cmdRsv (d : Word) : BitVec 28 := d.extractLsb' 4 28

/-- `OPC = d[3:0]` (R81). -/
def cmdOpc (d : Word) : BitVec 4 := d.extractLsb' 0 4

/-- `decode_cmd` (R86). -/
def decodeCmd (d : Word) : Decoded :=
  if cmdRsv d ≠ 0#28 then .illegal .reservedBits
  else if cmdOpc d = 0x1#4 then .command .fdec
  else if cmdOpc d = 0x2#4 then .command .fenc
  else if cmdOpc d = 0x3#4 then .command .ppack
  else if cmdOpc d = 0x4#4 then .command .punpack
  else .illegal .reservedOpcode

/-- The command that a word of `nbits` bits, read as the number `w`, decodes to; none where the decoder refuses it. Every
command has one length, 32 bits (R80): a word of another length is no command. -/
def decodeTableWord (nbits w : Nat) : Option Instr :=
  if nbits = 32 ∧ w < 2 ^ 32 then
    match decodeCmd (BitVec.ofNat 32 w) with
    | .command i => some i
    | .illegal _ => none
  else none

/-- The opcode of a command (R82). -/
def Instr.opcode : Instr → BitVec 4
  | .fdec => 0x1#4
  | .fenc => 0x2#4
  | .ppack => 0x3#4
  | .punpack => 0x4#4

/-- The full CMD word of a command (the third column of R82's table). -/
def encode : Instr → Word
  | .fdec => 0x00000001#32
  | .fenc => 0x00000002#32
  | .ppack => 0x00000003#32
  | .punpack => 0x00000004#32

end Sys2Proof
end

