-- ==== Sys2Proof/Machine/State.lean ====
section
/-! DEFINITION. The state of the FPFC (spec/10_state.md R20): the registers the spec gives it, and the model's own port
(the host's accesses still to be served, and the response to the last one). -/

namespace Sys2Proof.Machine

/-- No fault exists: nothing stops an FPFC. A bus error is a response to the host that changes no state (R184), an illegal
command is a record in STATUS (R181), and no command raises anything (R180). So this type has no constructor (DEDUCED, log entry 4). -/
inductive Fault
deriving DecidableEq, Repr

/-- Why the model gives a command no meaning. -/
inductive Refusal where
  /-- A command whose arm of `exec` has no meaning yet would raise this, and that is safe. Nothing raises it: every arm has
  its meaning. -/
  | notModelled (mnemonic : String)
deriving DecidableEq, Repr

/-- The registers of the window that have a name (R50). -/
inductive Reg where
  | arg
  | cmd
  | status
  | res0
  | res1
deriving DecidableEq, Repr

/-- The width of a host access (R54). -/
inductive Width where
  | w8
  | w16
  | w32
  | w64
deriving DecidableEq, Repr

/-- What an access does. The data is that of a 32-bit write; a write of another width changes no state whatever its data
(R184), so its data is not kept (DESIGN CHOICE, log entry 8). -/
inductive AccessKind where
  | read
  | write (data : Word)
deriving DecidableEq, Repr

/-- One host access that starts in the 64-byte window, at window offset `off` (R50, R91). -/
structure Access where
  off : Fin 64
  width : Width
  kind : AccessKind
deriving DecidableEq, Repr

/-- The bus response to one host access. -/
inductive Response where
  /-- A read returned `v`. -/
  | data (v : Word)
  /-- A write completed normally. -/
  | done
  /-- `BusError(off)`: the error response (R184). -/
  | error (off : Fin 64)
deriving DecidableEq, Repr

/-- What reaches the block from outside, one at a time (R62). -/
inductive Event where
  /-- A host access. -/
  | access (a : Access)
  /-- The platform's reset input, between two accesses (R210). -/
  | reset
  /-- Reset while the CMD write of `d` is in progress (R211). The response of the abandoned write is the platform's
  business, so the platform supplies it here: any response, or none (DEDUCED, log entry 7). -/
  | resetDuringCmd (d : Word) (answer : Option Response)
deriving DecidableEq, Repr

/-- The state of an FPFC: R20's record, and after it the model's own port. CMD has no storage (R22). The STATUS word is
assembled from its fields (R23; `State.statusWord`). -/
structure State where
  /-- ARG, the operand register (R21). -/
  arg : Word
  /-- RES0, the primary result (R33). -/
  res0 : Word
  /-- RES1, the secondary result (R34). -/
  res1 : Word
  /-- STATUS.ERR, bit 0 (R24). -/
  err : Bool
  /-- STATUS.WRAP, bit 1 (R25). -/
  wrap : Bool
  /-- STATUS.IGN, bit 2 (R26). -/
  ign : Bool
  /-- STATUS.INEXACT, bit 3 (R27). -/
  inexact : Bool
  /-- STATUS.SAT, bit 4 (R28). -/
  sat : Bool
  /-- STATUS.LASTOP, bits 11..8 (R29). -/
  lastop : BitVec 4
  /-- STATUS.ERRCAUSE, bits 15..12 (R30). -/
  errcause : BitVec 4
  /-- MODEL'S OWN: what the block has yet to receive, in the order it receives it (R62; DESIGN CHOICE, log entry 1). -/
  inbox : List Event
  /-- MODEL'S OWN: the bus response to the last access served, none if there is none since reset (DESIGN CHOICE, log
  entry 2). -/
  resp : Option Response
deriving DecidableEq, Repr

/-- Right after reset: ARG, RES0, RES1 and all of STATUS are 0 (R38, R210). The port is empty: the block waits for host
accesses (R212; DESIGN CHOICE, log entries 1, 2, 9). -/
def State.reset : State where
  arg := 0#32
  res0 := 0#32
  res1 := 0#32
  err := false
  wrap := false
  ign := false
  inexact := false
  sat := false
  lastop := 0#4
  errcause := 0#4
  inbox := []
  resp := none

end Sys2Proof.Machine
end

