-- ==== Sys2Proof/Machine/Operands.lean ====
section
/-! DEFINITION. Bit fields of numbers and the operand forms the commands take from ARG (spec/00_scope.md R9, R10;
spec/10_state.md R21; spec/30_encoding.md R87 to R90). -/

namespace Sys2Proof.Machine

/-- `v[hi:lo]`, an unsigned number of `hi - lo + 1` bits (R9). -/
def bits (v hi lo : Nat) : Nat := (v >>> lo) % 2 ^ (hi - lo + 1)

/-- `zext_32(v)`: `v` as a 32-bit value, used only where `v < 2^32` (R10). -/
def zext32 (v : Nat) : Word := BitVec.ofNat 32 v

/-- The operand of every command: ARG, zero-extended to a mathematical integer (R90). -/
def State.operand (s : State) : Nat := s.arg.toNat

/-- `cl`, bits 13..0 of a register code (R87, R101). -/
def codeLow (code : Nat) : Nat := code &&& 0x3FFF

/-- `ch`, bits 24..14 of a register code (R87, R101). -/
def codeHigh (code : Nat) : Nat := (code >>> 14) &&& 0x7FF

/-- The ARG bits FDEC ignores, 31..25 (R21). -/
def codeIgnored (a : Nat) : Nat := bits a 31 25

/-- The packed preamble byte PUNPACK takes, ARG bits 7..0 (R21, R88). -/
def packedOperand (a : Nat) : Nat := bits a 7 0

/-- The ARG bits PUNPACK ignores, 31..8 (R21). -/
def packedIgnored (a : Nat) : Nat := bits a 31 8

/-- The mantissa of a packed preamble byte, bits 3..0 (R88). -/
def byteMantissa (b : Nat) : Nat := b &&& 0xF

/-- The exponent of a packed preamble byte, bits 7..4 (R88). -/
def byteExponent (b : Nat) : Nat := (b >>> 4) &&& 0xF

/-- The packed byte of a mantissa and an exponent (R88, R144). -/
def packByte (m e : Nat) : Nat := (e <<< 4) ||| m

end Sys2Proof.Machine
end

