-- ==== Sys2Proof/Machine/Flags.lean ====
section
/-! DEFINITION. The flags a legal command writes (spec/10_state.md R25 to R28) and the STATUS word as the host reads it
(R23). -/

namespace Sys2Proof.Machine

/-- WRAP of FDEC: the high part does not fit 32 bits before its truncation (R25, R111). -/
def wrapFlag (a : Nat) : Bool := codeHigh a * 3250000 ≥ 2 ^ 32

/-- IGN of FDEC: ARG bits 31..25 are not all 0 (R26). -/
def ignFlagFdec (a : Nat) : Bool := codeIgnored a ≠ 0

/-- IGN of PUNPACK: ARG bits 31..8 are not all 0 (R26). -/
def ignFlagPunpack (a : Nat) : Bool := packedIgnored a ≠ 0

/-- INEXACT of PPACK: the representable value `r` differs from the input `a` (R27). -/
def inexactFlag (r a : Nat) : Bool := r ≠ a

/-- SAT of PPACK: the input exceeds 491,520 (R28). -/
def satFlag (a : Nat) : Bool := a > 491520

/-- STATUS as a host reads it (R23): reserved 31..16, ERRCAUSE 15..12, LASTOP 11..8, reserved 7..5, SAT 4, INEXACT 3,
IGN 2, WRAP 1, ERR 0. -/
def State.statusWord (s : State) : Word :=
  0#16 ++ s.errcause ++ s.lastop ++ 0#3 ++ BitVec.ofBool s.sat ++ BitVec.ofBool s.inexact
    ++ BitVec.ofBool s.ign ++ BitVec.ofBool s.wrap ++ BitVec.ofBool s.err

end Sys2Proof.Machine
end

