-- ==== Sys2Proof/Machine/Ops.lean ====
section
/-! DEFINITION. The named operations over the state: the register window (spec/20_memory.md), the one update that every
legal command makes (spec/30_encoding.md R93), raising an error and acknowledging it (spec/60_exceptions.md R181, R187),
and reset (spec/70_reset_and_hazards.md R210). -/

namespace Sys2Proof.Machine

/-- What `exec_<cmd>` returns: `(r0, r1, w, i, q, s)` (R93). -/
structure CmdResult where
  r0 : Word
  r1 : Word
  w : Bool
  i : Bool
  q : Bool
  s : Bool
deriving DecidableEq, Repr

/-- The update of a legal command with opcode `op` (R32, R93): both results, the four flags and LASTOP. ARG, ERR and
ERRCAUSE are unchanged. -/
def State.complete (st : State) (op : BitVec 4) (r : CmdResult) : State :=
  { st with
    res0 := r.r0, res1 := r.r1
    wrap := r.w, ign := r.i, inexact := r.q, sat := r.s
    lastop := op }

/-- `raise IllegalCommand(c)`, the FPFC's only exception (R181, R32): ERR is set and ERRCAUSE records the newest cause.
Nothing else changes; there is no pc to save, no vector and no mode (R186). -/
def State.raiseIllegal (s : State) (c : Cause) : State := { s with err := true, errcause := c.code }

/-- The host's acknowledgement of an error, the counterpart of a trap return (R57, R187): a write of `d` to STATUS clears
ERR and ERRCAUSE when its bit 0 is 1, and is ignored otherwise. -/
def State.writeStatus (s : State) (d : Word) : State :=
  if d.getLsbD 0 then { s with err := false, errcause := 0#4 } else s

/-- A host write to ARG stores all 32 bits (R55). -/
def State.writeArg (s : State) (v : Word) : State := { s with arg := v }

/-- The bus answers the access being served with `r`. -/
def State.respond (s : State) (r : Response) : State := { s with resp := some r }

/-- The event at the head of the inbox is taken, and `rest` stays. -/
def State.accept (s : State) (rest : List Event) : State := { s with inbox := rest }

/-- Reset (R210): every piece of the block's state takes its reset value. What the block has yet to receive is the host's,
and stays. `answer` is the response standing on the bus. -/
def State.resetBlock (s : State) (answer : Option Response) : State :=
  { State.reset with inbox := s.inbox, resp := answer }

/-- Bytes of an access. -/
def Width.bytes : Width → Nat
  | .w8 => 1
  | .w16 => 2
  | .w32 => 4
  | .w64 => 8

/-- The only admitted access (R54): 32 bits wide, at an offset that is a multiple of 4, within the window. -/
def Access.admitted (a : Access) : Bool :=
  a.width = .w32 && a.off.val % 4 = 0 && a.off.val + a.width.bytes ≤ 64

/-- The register at a word offset of the window; none at a reserved offset, 0x14..0x3C (R50). -/
def regAt (off : Fin 64) : Option Reg :=
  match off.val with
  | 0x00 => some .arg
  | 0x04 => some .cmd
  | 0x08 => some .status
  | 0x0C => some .res0
  | 0x10 => some .res1
  | _ => none

/-- `off(reg)` (R91): the window offset of a register (R50). -/
def Reg.off : Reg → Fin 64
  | .arg => 0x00
  | .cmd => 0x04
  | .status => 0x08
  | .res0 => 0x0C
  | .res1 => 0x10

/-- A host read of a register (R55 to R58). CMD holds no value and reads as 0 (R22). -/
def State.readReg (s : State) : Reg → Word
  | .arg => s.arg
  | .cmd => 0#32
  | .status => s.statusWord
  | .res0 => s.res0
  | .res1 => s.res1

/-- A host read at a word offset of the window: a reserved one reads as 0 (R51). -/
def State.readWindow (s : State) (off : Fin 64) : Word :=
  match regAt off with
  | some r => s.readReg r
  | none => 0#32

/-- `MemWrite(BASE + off, 4, v)` as an event. -/
def Event.write (off : Fin 64) (v : Word) : Event := .access ⟨off, .w32, .write v⟩

/-- `MemRead(BASE + off, 4)` as an event. -/
def Event.read (off : Fin 64) : Event := .access ⟨off, .w32, .read⟩

/-- The access that the platform's address decode hands the block for a host access at address `addr` (R50): the one at
offset `addr - BASE` if `addr` lies in the window, `BASE .. BASE + 0x3F`; none otherwise (DESIGN CHOICE, log entry 5). -/
def accessAt (addr : Nat) (w : Width) (k : AccessKind) : Option Access :=
  if Config.base ≤ addr then
    if h : addr - Config.base < 64 then some ⟨⟨addr - Config.base, h⟩, w, k⟩ else none
  else none

/-- The host issues an access at a host address: it queues up behind the earlier ones if it is the block's, and does not
reach the block otherwise. -/
def State.issue (s : State) (addr : Nat) (w : Width) (k : AccessKind) : State :=
  match accessAt addr w k with
  | some a => { s with inbox := s.inbox ++ [.access a] }
  | none => s

end Sys2Proof.Machine
end

