-- ==== Sys2Proof/Machine/Frequency.lean ====
section
/-! DEFINITION. The frequency codec (spec/40_frequency_codec.md): the pure functions of R102 and R107, and the meanings of
FDEC (R111) and FENC (R112). All arithmetic is on unbounded naturals, narrowed only where the spec narrows. -/

namespace Sys2Proof.Machine

/-- `K = 13 * 15625` (R6, R100). -/
def stepK : Nat := 13 * 15625

/-- Halving with round-half-up, `(v >> 1) + (v & 1)`: step 5 of the decode and of the encode (R102, R103, R107). -/
def roundHalf (v : Nat) : Nat := (v >>> 1) + (v &&& 1)

/-- `fl`, the rounded low part of a decoded frequency (R102 steps 1, 3, 4, 5). -/
def freqLow (code : Nat) : Nat := roundHalf ((codeLow code * stepK) >>> 9)

/-- `fh`, the high part of a decoded frequency, truncated to 32 bits (R102 steps 2, 3, 6). -/
def freqHigh (code : Nat) : Nat := ((codeHigh code * stepK) <<< 4) &&& 0xFFFFFFFF

/-- `freq_decode` (R102): the sum of step 7 is not truncated. -/
def freqDecode (code : Nat) : Nat := freqLow code + freqHigh code

/-- The encoder's code before its rounding (R107 steps 2, 3, 4). -/
def encodeScaled (f : Nat) : Nat := ((f / stepK) <<< 11) + ((f % stepK) <<< 11) / stepK

/-- `freq_encode` (R107). -/
def freqEncode (f : Nat) : Nat := roundHalf (encodeScaled f)

/-- `exec_FDEC(a)` (R111): the 33-bit frequency over RES0 and RES1 bit 0. -/
def fdecResult (a : Nat) : CmdResult where
  r0 := zext32 (bits (freqDecode a) 31 0)
  r1 := zext32 (bits (freqDecode a) 32 32)
  w := wrapFlag a
  i := ignFlagFdec a
  q := false
  s := false

/-- `exec_FENC(a)` (R112). -/
def fencResult (a : Nat) : CmdResult where
  r0 := zext32 (freqEncode a)
  r1 := 0#32
  w := false
  i := false
  q := false
  s := false

/-- FDEC (R111). -/
def execFdec (s : State) : Host.Outcome State Fault Refusal :=
  .next (s.complete (Instr.opcode .fdec) (fdecResult s.operand))

/-- FENC (R112). -/
def execFenc (s : State) : Host.Outcome State Fault Refusal :=
  .next (s.complete (Instr.opcode .fenc) (fencResult s.operand))

end Sys2Proof.Machine
end

