-- ==== Sys2Proof/Machine/Preamble.lean ====
section
/-! DEFINITION. The preamble codec (spec/41_preamble_codec.md): the pure functions of R141 and R146, and the meanings of
PPACK (R152) and PUNPACK (R153). -/

namespace Sys2Proof.Machine

/-- Step 2 of R141, the halving loop, from mantissa `m` and exponent `e`: halve while the mantissa exceeds 15, and stop once
the exponent has reached 15. `fuel` bounds the passes; 15 are enough from exponent 0 (R191). -/
def halveLoop : (fuel m e : Nat) → Nat × Nat
  | 0, m, e => (m, e)
  | fuel + 1, m, e =>
    if m > 15 then
      if e + 1 = 15 then (m >>> 1, e + 1) else halveLoop fuel (m >>> 1) (e + 1)
    else (m, e)

/-- Mantissa and exponent after the loop, before the clamp (R141 steps 1 and 2). -/
def halved (p : Nat) : Nat × Nat := halveLoop 15 p 0

/-- `pre_pack` (R141): the pair (m, e), with the clamp of step 3. -/
def prePack (p : Nat) : Nat × Nat :=
  (if (halved p).1 > 15 then 15 else (halved p).1, (halved p).2)

/-- The representable value of a count, `m << e` (R143). -/
def preRep (p : Nat) : Nat := (prePack p).1 <<< (prePack p).2

/-- The packed byte of a count (R144). -/
def preByte (p : Nat) : Nat := packByte (prePack p).1 (prePack p).2

/-- `pre_value` (R146): the value a packed byte stands for. -/
def preValue (b : Nat) : Nat := byteMantissa b <<< byteExponent b

/-- A canonical packed byte: its exponent is 0, or its mantissa is in 8..15 (R14, R147). -/
def canonicalByte (b : Nat) : Bool := byteExponent b = 0 || 8 ≤ byteMantissa b

/-- `exec_PPACK(a)` (R152). -/
def ppackResult (a : Nat) : CmdResult where
  r0 := zext32 (preRep a)
  r1 := zext32 (preByte a)
  w := false
  i := false
  q := inexactFlag (preRep a) a
  s := satFlag a

/-- `exec_PUNPACK(a)` (R153): every byte is legal, canonical or not. -/
def punpackResult (a : Nat) : CmdResult where
  r0 := zext32 (preValue (packedOperand a))
  r1 := zext32 (packedOperand a)
  w := false
  i := ignFlagPunpack a
  q := false
  s := false

/-- PPACK (R152). -/
def execPpack (s : State) : Host.Outcome State Fault Refusal :=
  .next (s.complete (Instr.opcode .ppack) (ppackResult s.operand))

/-- PUNPACK (R153). -/
def execPunpack (s : State) : Host.Outcome State Fault Refusal :=
  .next (s.complete (Instr.opcode .punpack) (punpackResult s.operand))

end Sys2Proof.Machine
end

