-- ==== Sys2Proof/Machine/Dispatch.lean ====
section
/-! DEFINITION. The meaning of every command: one arm per constructor of `Instr`. -/

namespace Sys2Proof.Machine

def exec (i : Instr) (s : State) : Host.Outcome State Fault Refusal :=
  match i with
  | .fdec => Sys2Proof.Machine.execFdec s
  | .fenc => Sys2Proof.Machine.execFenc s
  | .ppack => Sys2Proof.Machine.execPpack s
  | .punpack => Sys2Proof.Machine.execPunpack s

end Sys2Proof.Machine
end

