-- ==== Sys2Proof/Machine/Bus.lean ====
section
/-! DEFINITION. What the block does with one event from outside (spec/20_memory.md R54 to R58, spec/30_encoding.md R93,
spec/60_exceptions.md R181 and R184, spec/70_reset_and_hazards.md R210 and R211). -/

namespace Sys2Proof.Machine

/-- A 32-bit write of `d` to CMD: the command step (R93). A legal word runs its command; an illegal one is recorded. The
write itself completes normally on the bus in both cases (R181, R215). -/
def runCmd (d : Word) (s : State) : Host.Outcome State Fault Refusal :=
  match decodeCmd d with
  | .illegal c => .next ((s.respond .done).raiseIllegal c)
  | .command i => exec i (s.respond .done)

/-- An admitted write of `d` at a word offset (R51, R55 to R58). -/
def hostWrite (off : Fin 64) (d : Word) (s : State) : Host.Outcome State Fault Refusal :=
  match regAt off with
  | some .arg => .next ((s.respond .done).writeArg d)
  | some .cmd => runCmd d s
  | some .status => .next ((s.respond .done).writeStatus d)
  | some .res0 => .next (s.respond .done)
  | some .res1 => .next (s.respond .done)
  | none => .next (s.respond .done)

/-- An admitted read at a word offset: it returns the register's value and has no side effect (R61). -/
def hostRead (off : Fin 64) (s : State) : Host.Outcome State Fault Refusal :=
  .next (s.respond (.data (s.readWindow off)))

/-- One host access. An access R54 does not admit gets the error response and changes no register (R184). -/
def serveAccess (a : Access) (s : State) : Host.Outcome State Fault Refusal :=
  if a.admitted then
    match a.kind with
    | .read => hostRead a.off s
    | .write d => hostWrite a.off d s
  else .next (s.respond (.error a.off))

/-- One event from outside. A reset during a CMD write abandons the command, and leaves no partial result (R211). -/
def serveEvent (e : Event) (s : State) : Host.Outcome State Fault Refusal :=
  match e with
  | .access a => serveAccess a s
  | .reset => .next (s.resetBlock none)
  | .resetDuringCmd _ answer => .next (s.resetBlock answer)

/-- With nothing to serve the block waits for host accesses (R212): nothing changes (DESIGN CHOICE, log entry 3). -/
def waitForHost (s : State) : Host.Outcome State Fault Refusal := .next s

/-- The state in which the CMD write of the word `w` of `nbits` bits is the next event the block receives (DESIGN CHOICE,
log entry 9). Every command is one 32-bit word (R80), so a word of another length, or a number of more than 32 bits, is
nothing to write: the state stays. -/
def State.withCmdFirst (s : State) (nbits w : Nat) : State :=
  if nbits = 32 ∧ w < 2 ^ 32 then { s with inbox := Event.write Reg.cmd.off (BitVec.ofNat 32 w) :: s.inbox } else s

end Sys2Proof.Machine
end

