-- ==== Sys2Proof/Machine/Step.lean ====
section
/-! DEFINITION. One step: the block serves the next event it receives (spec/20_memory.md R62), or waits (R212). It fetches
nothing (R35, R65): a command comes to run because the host writes its word to CMD. -/

namespace Sys2Proof.Machine

/-- One step (R62, R93). -/
def step (s : State) : Host.Outcome State Fault Refusal :=
  match s.inbox with
  | [] => waitForHost s
  | e :: rest => serveEvent e (s.accept rest)

/-- `s` with the command word `w` of `nbits` bits where the block gets its next command: as the data of a CMD write that is
the next access it receives; `s` itself where that is no 32-bit word (R80). -/
def State.withFetchWord (s : State) (nbits w : Nat) : State := s.withCmdFirst nbits w

end Sys2Proof.Machine
end

