-- ==== Sys2Proof/Machine/HostSyntax.lean ====
section
/-! DEFINITION. The host-level assembly of spec/30_encoding.md R91 and R92: two base forms, the four command mnemonics, and
the five pseudo-instructions, each as the bus accesses it stands for. -/

namespace Sys2Proof.Machine

/-- A statement of the host's assembly (R91). -/
inductive HostStmt where
  | wr (reg : Reg) (v : Word)
  | rd (reg : Reg)
  | cmd (i : Instr)
deriving DecidableEq, Repr

/-- A pseudo-instruction (R92). -/
inductive Pseudo where
  | fdec (v : Word)
  | fenc (v : Word)
  | ppack (v : Word)
  | punpack (v : Word)
  | clrerr
deriving DecidableEq, Repr

/-- The bus access of a statement (R91). -/
def HostStmt.event : HostStmt → Event
  | .wr reg v => Event.write reg.off v
  | .rd reg => Event.read reg.off
  | .cmd i => Event.write Reg.cmd.off (encode i)

/-- The expansion of a pseudo-instruction (R92). -/
def Pseudo.expand : Pseudo → List HostStmt
  | .fdec v => [.wr .arg v, .cmd .fdec]
  | .fenc v => [.wr .arg v, .cmd .fenc]
  | .ppack v => [.wr .arg v, .cmd .ppack]
  | .punpack v => [.wr .arg v, .cmd .punpack]
  | .clrerr => [.wr .status 0x00000001#32]

/-- The bus accesses of a pseudo-instruction: its expansion and nothing more (R92). -/
def Pseudo.events (p : Pseudo) : List Event := p.expand.map HostStmt.event

end Sys2Proof.Machine
end

