-- ==== Sys2Proof/Safety.lean ====
section
/-! DEFINITION. The terms claims use: runs of several steps, the invariant of the registers, and which events may change
which registers. -/

namespace Sys2Proof.Machine

/-- `n` steps, stopping at the first fault or refusal. -/
def runSteps : Nat → State → Host.Outcome State Fault Refusal
  | 0, s => .next s
  | n + 1, s =>
    match step s with
    | .next t => runSteps n t
    | .fault f => .fault f
    | .refused r => .refused r

/-- The event is an admitted write of ARG (R55). -/
def Event.writesArg (e : Event) : Prop := ∃ v, e = Event.write 0x00 v

/-- The event is a CMD write of a legal command word (R85). -/
def Event.runsCommand (e : Event) : Prop := ∃ i, e = Event.write 0x04 (encode i)

/-- The event is a CMD write of an illegal command word (R181). -/
def Event.runsIllegal (e : Event) : Prop := ∃ d c, decodeCmd d = .illegal c ∧ e = Event.write 0x04 d

/-- The event is a STATUS write with data bit 0 set (R57). -/
def Event.clearsError (e : Event) : Prop := ∃ d : Word, d.getLsbD 0 = true ∧ e = Event.write 0x08 d

/-- The event resets the block (R210, R211). -/
def Event.resets (e : Event) : Prop := e = .reset ∨ ∃ d a, e = .resetDuringCmd d a

/-- What ERR and ERRCAUSE hold (R24, R30): cause 0 exactly while ERR is 0, else 1 or 2. -/
structure State.ErrorOk (s : State) : Prop where
  none : s.err = false → s.errcause = 0#4
  some : s.err = true → s.errcause = 1#4 ∨ s.errcause = 2#4

/-- What RES0, RES1 and the flags hold, by the last legal command (R25 to R29, R33, R34). -/
structure State.ResultsOk (s : State) : Prop where
  lastop : s.lastop.toNat ≤ 4
  /-- No command since reset: all 0 (R29, R38). -/
  fresh : s.lastop = 0#4 → s.res0 = 0#32 ∧ s.res1 = 0#32 ∧
    s.wrap = false ∧ s.ign = false ∧ s.inexact = false ∧ s.sat = false
  /-- FDEC: RES1 holds bit 32 only, and a wrapped result fits 32 bits (R34, R105). -/
  fdec : s.lastop = 1#4 → s.res1.toNat ≤ 1 ∧ (s.wrap = true → s.res1 = 0#32) ∧
    s.inexact = false ∧ s.sat = false
  /-- FENC: a code in the design range, no flag (R33, R110, R112). -/
  fenc : s.lastop = 2#4 → s.res0.toNat ≤ 21651921 ∧ s.res1 = 0#32 ∧
    s.wrap = false ∧ s.ign = false ∧ s.inexact = false ∧ s.sat = false
  /-- PPACK: RES1 is a canonical byte, RES0 its value; saturation is inexact and gives 0xFF (R28, R147, R150, R152). -/
  ppack : s.lastop = 3#4 → s.res1.toNat < 256 ∧ canonicalByte s.res1.toNat = true ∧
    s.res0.toNat = preValue s.res1.toNat ∧ s.wrap = false ∧ s.ign = false ∧
    (s.sat = true → s.inexact = true ∧ s.res1 = 0xFF#32)
  /-- PUNPACK: RES1 is a byte, RES0 its value (R33, R34, R153). -/
  punpack : s.lastop = 4#4 → s.res1.toNat < 256 ∧ s.res0.toNat = preValue s.res1.toNat ∧
    s.wrap = false ∧ s.inexact = false ∧ s.sat = false

/-- The invariant of the registers: every step keeps it. -/
structure State.Inv (s : State) : Prop where
  error : s.ErrorOk
  results : s.ResultsOk

end Sys2Proof.Machine
end

