-- ==== Sys2Proof/Certificates/Slice0/Obligations.lean ====
section
/-! DEFINITION. The statements for the provers. Each docstring names the rules of spec/ it formalises. Events are written
with `Event.write off v` and `Event.read off`, the 32-bit accesses of spec/30_encoding.md R91. The fields `inbox` and
`resp` are the model's own port (log entries 1 and 2). -/

open Sys2Proof Sys2Proof.Machine

/-! ## Decoding and encoding -/

/-- R86: every 32-bit word is exactly one of the four commands or illegal with exactly one cause, by the order of R86's
tests, here on the number the word is. -/
def Obligations.DecodeIsTotalByRuleR86 : Prop :=
  ∀ d : Word, decodeCmd d =
    if d.toNat / 16 ≠ 0 then .illegal .reservedBits
    else if d.toNat % 16 = 1 then .command .fdec
    else if d.toNat % 16 = 2 then .command .fenc
    else if d.toNat % 16 = 3 then .command .ppack
    else if d.toNat % 16 = 4 then .command .punpack
    else .illegal .reservedOpcode

/-- R85: exactly the words 1 to 4 are legal, and every other word is illegal. -/
def Obligations.LegalWordsAreOneToFour : Prop :=
  (∀ d : Word, (∃ i, decodeCmd d = .command i) ↔ 1 ≤ d.toNat ∧ d.toNat ≤ 4) ∧
  (∀ d : Word, d.toNat = 0 ∨ 4 < d.toNat → ∃ c, decodeCmd d = .illegal c)

/-- R80, R82, R86: decode and encode agree in both directions, for every word and every command; the numbered words of the
opcode table decode to the same commands, and no number of another length than 32 bits is a command. -/
def Obligations.DecodeInvertsEncode : Prop :=
  (∀ (i : Instr) (d : Word), decodeCmd d = .command i ↔ d = encode i) ∧
  (∀ (i : Instr) (nbits w : Nat), decodeTableWord nbits w = some i ↔ nbits = 32 ∧ w = (encode i).toNat)

/-- R82, R83, R84: a few words written out. -/
def Obligations.WrittenOutWordsDecode : Prop :=
  decodeCmd 0x00000001#32 = .command .fdec ∧ decodeCmd 0x00000002#32 = .command .fenc ∧
  decodeCmd 0x00000003#32 = .command .ppack ∧ decodeCmd 0x00000004#32 = .command .punpack ∧
  decodeCmd 0x00000000#32 = .illegal .reservedOpcode ∧ decodeCmd 0x0000000F#32 = .illegal .reservedOpcode ∧
  decodeCmd 0x00000011#32 = .illegal .reservedBits ∧ decodeCmd 0x80000001#32 = .illegal .reservedBits

/-! ## What each command does: result, completion and frame -/

/-- R111 with R102: FDEC's word, and its whole effect on every state: the 33-bit frequency, WRAP, IGN, the constant flags,
LASTOP, and nothing else. -/
def Obligations.FdecDecodesEveryCode : Prop :=
  decodeCmd 0x00000001#32 = .command .fdec ∧
  ∀ s : State,
    let a := s.arg.toNat
    let cl := a % 2 ^ 14
    let ch := a / 2 ^ 14 % 2 ^ 11
    let v := (cl * 203125 / 512 + 1) / 2 + ch * 203125 * 16 % 2 ^ 32
    v < 2 ^ 33 ∧
    exec .fdec s = .next { s with
      res0 := BitVec.ofNat 32 (v % 2 ^ 32), res1 := BitVec.ofNat 32 (v / 2 ^ 32)
      wrap := decide (1322 ≤ ch), ign := decide (2 ^ 25 ≤ a), inexact := false, sat := false, lastop := 1#4 }

/-- R112 with R109's closed form: FENC's word, and its whole effect on every state; no intermediate of R107's steps needs more
than 32 bits. -/
def Obligations.FencEncodesEveryFrequency : Prop :=
  decodeCmd 0x00000002#32 = .command .fenc ∧
  ∀ s : State,
    let c := (2048 * s.arg.toNat + 203125) / 406250
    c ≤ 21651921 ∧
    ((s.arg.toNat / stepK) <<< 11 < 2 ^ 32 ∧ (s.arg.toNat % stepK) <<< 11 < 2 ^ 32 ∧ encodeScaled s.arg.toNat < 2 ^ 32) ∧
    exec .fenc s = .next { s with
      res0 := BitVec.ofNat 32 c, res1 := 0#32
      wrap := false, ign := false, inexact := false, sat := false, lastop := 2#4 }

/-- R152 with R142's closed form (`Nat.size` is bitlen): PPACK's word, and its whole effect on every state. -/
def Obligations.PpackPacksEveryCount : Prop :=
  decodeCmd 0x00000003#32 = .command .ppack ∧
  ∀ s : State,
    let a := s.arg.toNat
    let e := min 15 (Nat.size a - 4)
    let m := min 15 (a / 2 ^ e)
    exec .ppack s = .next { s with
      res0 := BitVec.ofNat 32 (m * 2 ^ e), res1 := BitVec.ofNat 32 (16 * e + m)
      wrap := false, ign := false, inexact := decide (m * 2 ^ e ≠ a), sat := decide (491520 < a), lastop := 3#4 }

/-- R153: PUNPACK's word, and its whole effect on every state; every byte is legal, canonical or not. -/
def Obligations.PunpackUnpacksEveryByte : Prop :=
  decodeCmd 0x00000004#32 = .command .punpack ∧
  ∀ s : State,
    let a := s.arg.toNat
    let b := a % 256
    exec .punpack s = .next { s with
      res0 := BitVec.ofNat 32 (b % 16 * 2 ^ (b / 16)), res1 := BitVec.ofNat 32 b
      wrap := false, ign := decide (256 ≤ a), inexact := false, sat := false, lastop := 4#4 }

/-- R39: what each command, an illegal command word and the two host writes write, with the constants always written, and that
all else is unchanged. -/
def Obligations.WritesPerCommand : Prop :=
  ∀ s : State,
    (∃ t, exec .fdec s = .next t ∧ t = { s with
      res0 := t.res0, res1 := t.res1, wrap := t.wrap, ign := t.ign, inexact := false, sat := false, lastop := 1#4 }) ∧
    (∃ t, exec .fenc s = .next t ∧ t = { s with
      res0 := t.res0, res1 := 0#32, wrap := false, ign := false, inexact := false, sat := false, lastop := 2#4 }) ∧
    (∃ t, exec .ppack s = .next t ∧ t = { s with
      res0 := t.res0, res1 := t.res1, wrap := false, ign := false, inexact := t.inexact, sat := t.sat, lastop := 3#4 }) ∧
    (∃ t, exec .punpack s = .next t ∧ t = { s with
      res0 := t.res0, res1 := t.res1, wrap := false, ign := t.ign, inexact := false, sat := false, lastop := 4#4 }) ∧
    (∀ d c rest, decodeCmd d = .illegal c →
      step { s with inbox := Event.write 0x04 d :: rest } =
        .next { s with inbox := rest, resp := some .done, err := true, errcause := c.code }) ∧
    (∀ v rest, step { s with inbox := Event.write 0x00 v :: rest } =
        .next { s with inbox := rest, resp := some .done, arg := v }) ∧
    (∀ d rest, d.getLsbD 0 = true → step { s with inbox := Event.write 0x08 d :: rest } =
        .next { s with inbox := rest, resp := some .done, err := false, errcause := 0#4 })

/-! ## The flags -/

/-- R25: FDEC sets WRAP exactly when its high part needs more than 32 bits, that is when `ch` is 1322 or more; the other
commands clear it. -/
def Obligations.WrapFlagByCommand : Prop :=
  ∀ s : State,
    (∃ t, exec .fdec s = .next t ∧
      (t.wrap = true ↔ 2 ^ 32 ≤ s.arg.toNat / 2 ^ 14 % 2 ^ 11 * 203125 * 16) ∧
      (t.wrap = true ↔ 1322 ≤ s.arg.toNat / 2 ^ 14 % 2 ^ 11)) ∧
    ∀ i, i = .fenc ∨ i = .ppack ∨ i = .punpack → ∃ t, exec i s = .next t ∧ t.wrap = false

/-- R26: FDEC sets IGN exactly when ARG[31:25] is not 0, PUNPACK exactly when ARG[31:8] is not 0; FENC and PPACK clear it. -/
def Obligations.IgnFlagByCommand : Prop :=
  ∀ s : State,
    (∃ t, exec .fdec s = .next t ∧ (t.ign = true ↔ s.arg.extractLsb' 25 7 ≠ 0#7)) ∧
    (∃ t, exec .punpack s = .next t ∧ (t.ign = true ↔ s.arg.extractLsb' 8 24 ≠ 0#24)) ∧
    ∀ i, i = .fenc ∨ i = .ppack → ∃ t, exec i s = .next t ∧ t.ign = false

/-- R27: PPACK sets INEXACT exactly when the representable value it writes differs from ARG, which means it is less; the
others clear it. -/
def Obligations.InexactFlagByCommand : Prop :=
  ∀ s : State,
    (∃ t, exec .ppack s = .next t ∧ t.res0.toNat ≤ s.arg.toNat ∧
      (t.inexact = true ↔ t.res0 ≠ s.arg) ∧ (t.inexact = true ↔ t.res0.toNat < s.arg.toNat)) ∧
    ∀ i, i = .fdec ∨ i = .fenc ∨ i = .punpack → ∃ t, exec i s = .next t ∧ t.inexact = false

/-- R28: PPACK sets SAT exactly when ARG exceeds 491,520, and then INEXACT too; the others clear it. -/
def Obligations.SatFlagByCommand : Prop :=
  ∀ s : State,
    (∃ t, exec .ppack s = .next t ∧ (t.sat = true ↔ 491520 < s.arg.toNat) ∧ (t.sat = true → t.inexact = true)) ∧
    ∀ i, i = .fdec ∨ i = .fenc ∨ i = .punpack → ∃ t, exec i s = .next t ∧ t.sat = false

/-- R29: every legal command writes its opcode to LASTOP, an illegal one leaves it, and so does every step that serves
neither a legal command nor reset; after reset it is 0. In every run from reset LASTOP is 0 exactly when no legal command
has run since the last reset, and then RES0 and RES1 hold their reset values. Derived: that events queued behind a reset
are served is log entry 1, and that a step with nothing to serve leaves LASTOP log entry 3 (both DESIGN CHOICE). -/
def Obligations.LastopRecordsLastLegalCommand : Prop :=
  (∀ s : State,
    (∃ t, exec .fdec s = .next t ∧ t.lastop = 0x1#4) ∧ (∃ t, exec .fenc s = .next t ∧ t.lastop = 0x2#4) ∧
    (∃ t, exec .ppack s = .next t ∧ t.lastop = 0x3#4) ∧ (∃ t, exec .punpack s = .next t ∧ t.lastop = 0x4#4)) ∧
  (∀ (s : State) (d : Word) (c : Cause) (rest : List Event), decodeCmd d = .illegal c →
    ∃ t, step { s with inbox := Event.write 0x04 d :: rest } = .next t ∧ t.lastop = s.lastop) ∧
  (State.reset.lastop = 0x0#4 ∧ State.reset.res0 = 0#32 ∧ State.reset.res1 = 0#32) ∧
  (∀ s t : State, step s = .next t →
    (∀ e rest, s.inbox = e :: rest → ¬ e.runsCommand ∧ ¬ e.resets) → t.lastop = s.lastop) ∧
  (∀ (n : Nat) (evs : List Event), ∃ t, runSteps n { State.reset with inbox := evs } = .next t ∧
    (t.lastop = 0x0#4 ↔
      ∀ pre e post, evs.take n = pre ++ e :: post → e.runsCommand → ∃ r ∈ post, r.resets) ∧
    (t.lastop = 0x0#4 → t.res0 = 0#32 ∧ t.res1 = 0#32))

/-! ## Errors -/

/-- R24: ERR is set by every illegal command, cleared only by a STATUS write with data bit 0 set or by reset, left by every
legal command, and no stop: with ERR set a command does what it does otherwise. -/
def Obligations.ErrIsStickyAndNoStop : Prop :=
  (∀ (s : State) (d : Word) (c : Cause) (rest : List Event), decodeCmd d = .illegal c →
    ∃ t, step { s with inbox := Event.write 0x04 d :: rest } = .next t ∧ t.err = true) ∧
  (∀ s t : State, step s = .next t → s.err = true → t.err = false →
    ∃ e rest, s.inbox = e :: rest ∧ (e.clearsError ∨ e.resets)) ∧
  (∀ (s : State) (e : Event) (rest : List Event), e.clearsError ∨ e.resets →
    ∃ t, step { s with inbox := e :: rest } = .next t ∧ t.err = false) ∧
  (∀ (s : State) (i : Instr) (c : BitVec 4), ∃ t, exec i s = .next t ∧ t.err = s.err ∧
    exec i { s with err := true, errcause := c } = .next { t with err := true, errcause := c })

/-- R30: every illegal command writes its cause code, whatever ERR is; ERRCAUSE is cleared with ERR; a legal command leaves it;
and no step produces a value from 3 to 15. -/
def Obligations.ErrcauseHoldsNewestCause : Prop :=
  (∀ (s : State) (d : Word) (rest : List Event), decodeCmd d = .illegal .reservedOpcode →
    ∃ t, step { s with inbox := Event.write 0x04 d :: rest } = .next t ∧ t.errcause = 1#4) ∧
  (∀ (s : State) (d : Word) (rest : List Event), decodeCmd d = .illegal .reservedBits →
    ∃ t, step { s with inbox := Event.write 0x04 d :: rest } = .next t ∧ t.errcause = 2#4) ∧
  (∀ s t : State, step s = .next t → s.err = true → t.err = false → t.errcause = 0#4) ∧
  (∀ (s : State) (i : Instr), ∃ t, exec i s = .next t ∧ t.errcause = s.errcause) ∧
  (∀ s t : State, step s = .next t → t.errcause = s.errcause ∨ t.errcause.toNat ≤ 2)

/-- R181: an illegal CMD word sets ERR and ERRCAUSE, changes nothing else, and the write completes normally on the bus. -/
def Obligations.IllegalCommandIsRecordedOnly : Prop :=
  ∀ (s : State) (d : Word) (c : Cause) (rest : List Event), decodeCmd d = .illegal c →
    step { s with inbox := Event.write 0x04 d :: rest } =
      .next { s with inbox := rest, resp := some .done, err := true, errcause := c.code }

/-- R83, R84: which cause. Reserved bits give cause 2 whatever the opcode; clear reserved bits with a reserved opcode give
cause 1. -/
def Obligations.ReservedBitsWinOverReservedOpcode : Prop :=
  ∀ (s : State) (d : Word) (rest : List Event),
    (d.extractLsb' 4 28 ≠ 0#28 → step { s with inbox := Event.write 0x04 d :: rest } =
      .next { s with inbox := rest, resp := some .done, err := true, errcause := 2#4 }) ∧
    (d.extractLsb' 4 28 = 0#28 → d.extractLsb' 0 4 = 0x0#4 ∨ 5 ≤ (d.extractLsb' 0 4).toNat →
      step { s with inbox := Event.write 0x04 d :: rest } =
        .next { s with inbox := rest, resp := some .done, err := true, errcause := 1#4 })

/-- R54, R184: an access of another width, at an offset that is no multiple of 4, or across the window's end gets the error
response, and no FPFC state changes; a 32-bit access at a word offset gets no error response. -/
def Obligations.BusErrorChangesNoRegister : Prop :=
  ∀ (s : State) (a : Access) (rest : List Event),
    (a.width ≠ .w32 ∨ a.off.val % 4 ≠ 0 ∨ 64 < a.off.val + a.width.bytes →
      step { s with inbox := .access a :: rest } = .next { s with inbox := rest, resp := some (.error a.off) }) ∧
    (a.width = .w32 → a.off.val % 4 = 0 →
      ∃ t, step { s with inbox := .access a :: rest } = .next t ∧ ∀ off, t.resp ≠ some (.error off))

/-- R185: there is no other error event. ERR rises only at an illegal CMD word, and an error response answers only an access
that R54 does not admit, with that access's offset. The one other error response is the platform's own answer to a CMD write
that reset cut short (R211; the event carries it, log entry 7). -/
def Obligations.NoOtherErrorEvent : Prop :=
  ∀ (s t : State) (e : Event) (rest : List Event), s.inbox = e :: rest → step s = .next t →
    (s.err = false → t.err = true → e.runsIllegal) ∧
    (∀ off, t.resp = some (.error off) →
      (∃ a, e = .access a ∧ a.off = off ∧
        (a.width ≠ .w32 ∨ a.off.val % 4 ≠ 0 ∨ 64 < a.off.val + a.width.bytes)) ∨
      ∃ d, e = .resetDuringCmd d (some (.error off)))

/-- R180: every command completes on every state and raises nothing. That every step answers a next state, so that nothing
faults or is refused, is log entry 4 (DEDUCED from R180, R184 and R186), and that a step with an empty inbox answers one is
log entry 3 (DESIGN CHOICE). -/
def Obligations.EveryStepCompletes : Prop :=
  (∀ (i : Instr) (s : State), ∃ t, exec i s = .next t ∧ t.err = s.err ∧ t.errcause = s.errcause) ∧
  (∀ s : State, ∃ t, step s = .next t)

/-! ## The register window -/

/-- R56, R93: a CMD write of a word that decodes to a command runs exactly that command, on the state in which the write is
taken from the port and answered. -/
def Obligations.StepRunsDecodedCommand : Prop :=
  ∀ (s : State) (d : Word) (i : Instr) (rest : List Event), decodeCmd d = .command i →
    step { s with inbox := Event.write 0x04 d :: rest } = exec i { s with inbox := rest, resp := some .done }

/-- R51, R55 to R58, R61: a 32-bit read at every word offset returns the register there, 0 for CMD and for a reserved
offset, and changes nothing else. -/
def Obligations.ReadsReturnRegistersWithoutEffect : Prop :=
  ∀ (s : State) (rest : List Event),
    step { s with inbox := Event.read 0x00 :: rest } = .next { s with inbox := rest, resp := some (.data s.arg) } ∧
    step { s with inbox := Event.read 0x04 :: rest } = .next { s with inbox := rest, resp := some (.data 0#32) } ∧
    step { s with inbox := Event.read 0x08 :: rest } = .next { s with inbox := rest, resp := some (.data s.statusWord) } ∧
    step { s with inbox := Event.read 0x0C :: rest } = .next { s with inbox := rest, resp := some (.data s.res0) } ∧
    step { s with inbox := Event.read 0x10 :: rest } = .next { s with inbox := rest, resp := some (.data s.res1) } ∧
    ∀ off : Fin 64, 0x14 ≤ off.val → off.val % 4 = 0 →
      step { s with inbox := Event.read off :: rest } = .next { s with inbox := rest, resp := some (.data 0#32) }

/-- R23: where each field of STATUS stands in the word. -/
def Obligations.StatusWordHoldsItsFields : Prop :=
  ∀ s : State, s.statusWord.toNat =
    s.err.toNat + 2 * s.wrap.toNat + 4 * s.ign.toNat + 8 * s.inexact.toNat + 16 * s.sat.toNat +
      256 * s.lastop.toNat + 4096 * s.errcause.toNat

/-- R31: STATUS bits 7..5 and 31..16 read as 0; a host write to STATUS changes only ERR and ERRCAUSE, and only when data bit 0
is 1; the other data bits are ignored. -/
def Obligations.ReservedStatusBitsReadZero : Prop :=
  ∀ s : State,
    (∀ i : Nat, (5 ≤ i ∧ i ≤ 7) ∨ (16 ≤ i ∧ i ≤ 31) → s.statusWord.getLsbD i = false) ∧
    (∀ (d : Word) (rest : List Event), ∃ t, step { s with inbox := Event.write 0x08 d :: rest } = .next t ∧
      t = { s with inbox := rest, resp := some .done, err := t.err, errcause := t.errcause } ∧
      (d.getLsbD 0 = false → t.err = s.err ∧ t.errcause = s.errcause)) ∧
    (∀ (d d' : Word) (rest : List Event), d.getLsbD 0 = d'.getLsbD 0 →
      step { s with inbox := Event.write 0x08 d :: rest } = step { s with inbox := Event.write 0x08 d' :: rest })

/-- R57: a STATUS write clears ERR and ERRCAUSE when data bit 0 is 1 and does nothing otherwise; a read returns STATUS. -/
def Obligations.StatusWriteClearsError : Prop :=
  ∀ (s : State) (rest : List Event),
    (∀ d : Word, step { s with inbox := Event.write 0x08 d :: rest } =
      if d.getLsbD 0 then .next { s with inbox := rest, resp := some .done, err := false, errcause := 0#4 }
      else .next { s with inbox := rest, resp := some .done }) ∧
    step { s with inbox := Event.read 0x08 :: rest } = .next { s with inbox := rest, resp := some (.data s.statusWord) }

/-- R55: a write stores all 32 bits in ARG, and a read returns ARG. R62: so a read of ARG returns the value of the last ARG
write before it, whatever was received in between that is neither an ARG write nor reset. -/
def Obligations.ArgReadReturnsLastWrite : Prop :=
  (∀ (s : State) (v : Word) (rest : List Event),
    step { s with inbox := Event.write 0x00 v :: rest } = .next { s with inbox := rest, resp := some .done, arg := v } ∧
    step { s with inbox := Event.read 0x00 :: rest } = .next { s with inbox := rest, resp := some (.data s.arg) }) ∧
  (∀ (s : State) (v : Word) (mids rest : List Event), (∀ e ∈ mids, ¬ e.writesArg ∧ ¬ e.resets) →
    ∃ t, runSteps (mids.length + 2) { s with inbox := Event.write 0x00 v :: (mids ++ Event.read 0x00 :: rest) } = .next t ∧
      t.inbox = rest ∧ t.arg = v ∧ t.resp = some (.data v))

/-- R51, R58: writes to RES0, RES1 and every reserved word offset are ignored, and reads return RES0, RES1 and 0. They are no
errors (R185); that an ignored write is answered as completed is log entry 2 (DESIGN CHOICE). -/
def Obligations.ReadOnlyAndReservedWritesIgnored : Prop :=
  ∀ (s : State) (rest : List Event),
    (∀ (off : Fin 64) (v : Word), 0x0C ≤ off.val → off.val % 4 = 0 →
      step { s with inbox := Event.write off v :: rest } = .next { s with inbox := rest, resp := some .done }) ∧
    step { s with inbox := Event.read 0x0C :: rest } = .next { s with inbox := rest, resp := some (.data s.res0) } ∧
    step { s with inbox := Event.read 0x10 :: rest } = .next { s with inbox := rest, resp := some (.data s.res1) } ∧
    ∀ off : Fin 64, 0x14 ≤ off.val → off.val % 4 = 0 →
      step { s with inbox := Event.read off :: rest } = .next { s with inbox := rest, resp := some (.data 0#32) }

/-- R61: every access is idempotent: the same access twice leaves what it leaves once. A read, admitted or not, changes no
register. -/
def Obligations.EveryAccessIsIdempotent : Prop :=
  (∀ (s : State) (a : Access) (rest : List Event),
    runSteps 2 { s with inbox := .access a :: .access a :: rest } = runSteps 1 { s with inbox := .access a :: rest }) ∧
  (∀ (s : State) (a : Access) (rest : List Event), a.kind = .read →
    ∃ r, step { s with inbox := .access a :: rest } = .next { s with inbox := rest, resp := some r })

/-- R50: the platform's address decode. The 64 host addresses from BASE are the window, no other address reaches the block,
and BASE is a multiple of 64. That an access is the block's by its first address is the model's choice (log entry 5). -/
def Obligations.WindowIsSixtyFourBytesAtBase : Prop :=
  Config.base % 64 = 0 ∧
  (∀ (s : State) (off : Fin 64) (w : Width) (k : AccessKind),
    s.issue (Config.base + off.val) w k = { s with inbox := s.inbox ++ [.access ⟨off, w, k⟩] }) ∧
  (∀ (s : State) (addr : Nat) (w : Width) (k : AccessKind), addr < Config.base ∨ Config.base + 0x3F < addr →
    s.issue addr w k = s)

/-- R92: each pseudo-instruction is its expansion. Two accesses write ARG and run the command on the new operand; clrerr
clears ERR and ERRCAUSE. -/
def Obligations.PseudoInstructionsAreTheirExpansion : Prop :=
  ∀ (s : State) (v : Word) (rest : List Event),
    runSteps 2 { s with inbox := (Pseudo.fdec v).events ++ rest } =
      exec .fdec { s with arg := v, inbox := rest, resp := some .done } ∧
    runSteps 2 { s with inbox := (Pseudo.fenc v).events ++ rest } =
      exec .fenc { s with arg := v, inbox := rest, resp := some .done } ∧
    runSteps 2 { s with inbox := (Pseudo.ppack v).events ++ rest } =
      exec .ppack { s with arg := v, inbox := rest, resp := some .done } ∧
    runSteps 2 { s with inbox := (Pseudo.punpack v).events ++ rest } =
      exec .punpack { s with arg := v, inbox := rest, resp := some .done } ∧
    runSteps 1 { s with inbox := Pseudo.clrerr.events ++ rest } =
      .next { s with err := false, errcause := 0#4, inbox := rest, resp := some .done }

/-! ## Reset and waiting -/

/-- R38: the reset state, CMD's reading, and that FDEC of code 0 gives the same results. -/
def Obligations.ResetStateIsAllZero : Prop :=
  State.reset.arg = 0#32 ∧ State.reset.res0 = 0#32 ∧ State.reset.res1 = 0#32 ∧
  State.reset.err = false ∧ State.reset.wrap = false ∧ State.reset.ign = false ∧ State.reset.inexact = false ∧
  State.reset.sat = false ∧ State.reset.lastop = 0#4 ∧ State.reset.errcause = 0#4 ∧
  State.reset.statusWord = 0x00000000#32 ∧ State.reset.readWindow 0x04 = 0#32 ∧
  ∀ s : State, s.arg = 0#32 → ∃ t, exec .fdec s = .next t ∧ t.res0 = 0#32 ∧ t.res1 = 0#32

/-- R210: reset puts every register at its reset value, and nothing before it can prevent that: from every state, after
every sequence of events, reset leaves the reset state. The port is the model's own: that what the block has yet to receive
stays is log entry 1, and that no response stands on the bus after reset is log entry 2 (both DESIGN CHOICE). -/
def Obligations.NothingPreventsReset : Prop :=
  ∀ (s : State) (before rest : List Event),
    runSteps (before.length + 1) { s with inbox := before ++ .reset :: rest } = .next { State.reset with inbox := rest }

/-- R211: reset during a CMD write leaves exactly the reset state, whatever came before and whatever the command word; the
response of the abandoned write is the platform's. The event that carries that response is log entry 7 (DEDUCED), and that
what the block has yet to receive stays is log entry 1 (DESIGN CHOICE). -/
def Obligations.ResetAbandonsCommandInProgress : Prop :=
  ∀ (s : State) (d : Word) (answer : Option Response) (before rest : List Event),
    runSteps (before.length + 1) { s with inbox := before ++ .resetDuringCmd d answer :: rest } =
      .next { State.reset with inbox := rest, resp := answer }

/-- R212: with no host access to serve the block waits, and nothing changes. That waiting is a step is the model's choice
(log entry 3). -/
def Obligations.WaitingChangesNothing : Prop :=
  ∀ (s : State) (n : Nat), s.inbox = [] → runSteps n s = .next s

/-! ## Invariants and rules of the whole machine -/

/-- The invariant of the registers (R24 to R30, R33, R34, R105, R110, R147, R150) is kept by every step from every state. -/
def Obligations.StepKeepsRegisterInvariant : Prop :=
  ∀ s t : State, s.Inv → step s = .next t → t.Inv

/-- The invariant holds right after reset, whatever the host is about to send (R38). -/
def Obligations.ResetMeetsRegisterInvariant : Prop :=
  ∀ evs : List Event, { State.reset with inbox := evs }.Inv

/-- I3, R30, R38: after reset, whatever the host does for however long, ERRCAUSE is 0, 1 or 2, it is 0 exactly while ERR is 0,
and every event sent has been served or stays in order. The inbox and the events queued behind a reset are log entry 1, and
the steps after the last event log entry 3 (both DESIGN CHOICE). -/
def Obligations.RunsFromResetKeepErrcauseLegal : Prop :=
  ∀ (n : Nat) (evs : List Event), ∃ t, runSteps n { State.reset with inbox := evs } = .next t ∧
    t.errcause.toNat ≤ 2 ∧ (t.errcause = 0#4 ↔ t.err = false) ∧ t.inbox = evs.drop n

/-- R217: RES0, RES1, WRAP, IGN, INEXACT, SAT and LASTOP change only at a legal command or reset. -/
def Obligations.ResultsLastUntilNextCommand : Prop :=
  ∀ s t : State, step s = .next t →
    (∀ e rest, s.inbox = e :: rest → ¬ e.runsCommand ∧ ¬ e.resets) →
    t.res0 = s.res0 ∧ t.res1 = s.res1 ∧ t.wrap = s.wrap ∧ t.ign = s.ign ∧ t.inexact = s.inexact ∧ t.sat = s.sat ∧
      t.lastop = s.lastop

/-- R21: no command writes ARG; a step changes it only by a host write to ARG or by reset. -/
def Obligations.ArgChangesOnlyByHostWrite : Prop :=
  (∀ (i : Instr) (s : State), ∃ t, exec i s = .next t ∧ t.arg = s.arg) ∧
  (∀ s t : State, step s = .next t → t.arg ≠ s.arg → ∃ e rest, s.inbox = e :: rest ∧ (e.writesArg ∨ e.resets))

/-- R37: a command's results depend on ARG alone, not on any earlier command. -/
def Obligations.ResultsDependOnArgAlone : Prop :=
  ∀ (i : Instr) (s u : State), s.arg = u.arg → ∃ t v, exec i s = .next t ∧ exec i u = .next v ∧
    t.res0 = v.res0 ∧ t.res1 = v.res1 ∧ t.wrap = v.wrap ∧ t.ign = v.ign ∧ t.inexact = v.inexact ∧ t.sat = v.sat ∧
      t.lastop = v.lastop

/-- R216: a command uses the ARG value of the last ARG write before its CMD write, whatever comes between that is neither an
ARG write nor reset, or 0 if there has been none since reset; a later ARG write changes no result. That the events queued behind a reset are
served is log entry 1 (DESIGN CHOICE). -/
def Obligations.CommandUsesLastArgWrite : Prop :=
  (∀ (s : State) (v : Word) (mids : List Event) (i : Instr) (rest : List Event),
    (∀ e ∈ mids, ¬ e.writesArg ∧ ¬ e.resets) →
    ∃ t u, runSteps (mids.length + 2) { s with inbox := Event.write 0x00 v :: (mids ++ Event.write 0x04 (encode i) :: rest) } =
        .next t ∧ exec i { State.reset with arg := v } = .next u ∧
      t.inbox = rest ∧ t.res0 = u.res0 ∧ t.res1 = u.res1 ∧ t.wrap = u.wrap ∧ t.ign = u.ign ∧ t.inexact = u.inexact ∧
      t.sat = u.sat ∧ t.lastop = u.lastop) ∧
  (∀ (s : State) (mids : List Event) (i : Instr) (rest : List Event),
    (∀ e ∈ mids, ¬ e.writesArg ∧ ¬ e.resets) →
    ∃ t u, runSteps (mids.length + 2) { s with inbox := .reset :: (mids ++ Event.write 0x04 (encode i) :: rest) } =
        .next t ∧ exec i State.reset = .next u ∧
      t.inbox = rest ∧ t.res0 = u.res0 ∧ t.res1 = u.res1 ∧ t.wrap = u.wrap ∧ t.ign = u.ign ∧ t.inexact = u.inexact ∧
      t.sat = u.sat ∧ t.lastop = u.lastop) ∧
  (∀ (s : State) (v : Word) (rest : List Event),
    step { s with inbox := Event.write 0x00 v :: rest } = .next { s with inbox := rest, resp := some .done, arg := v })

/-! ## The frequency codec -/

/-- R105: the closed form of the decode, part by part, its order on the design range, and its bound beyond it. R105's "far
below" the code times the step and "does not grow with the code" are read as below it and as that bound (log entry 11,
DEDUCED). -/
def Obligations.DecodeClosedForm : Prop :=
  (∀ code : Nat, code < 2 ^ 32 →
    freqLow code = (code % 2 ^ 14 * 203125 + 512) / 1024 ∧
    freqHigh code = code / 2 ^ 14 % 2 ^ 11 * 3250000 % 2 ^ 32 ∧
    freqDecode code = freqLow code + freqHigh code ∧
    (code / 2 ^ 14 % 2 ^ 11 ≤ 1321 → freqDecode code = (code % 2 ^ 25 * 203125 + 512) / 1024) ∧
    (1322 ≤ code / 2 ^ 14 % 2 ^ 11 → freqDecode code ≤ 2357782704 + 3249802 ∧
      1024 * freqDecode code < code % 2 ^ 25 * 203125)) ∧
  (∀ c d : Nat, c % 2 ^ 25 < d % 2 ^ 25 → d / 2 ^ 14 % 2 ^ 11 ≤ 1321 → freqDecode c < freqDecode d)

/-- R106: the output range of the decode, and the only codes whose result sets RES1 bit 0. -/
def Obligations.DecodeOutputRange : Prop :=
  freqDecode 0 = 0 ∧
  (∀ code : Nat, code < 2 ^ 32 →
    (freqDecode code ≤ 2 ^ 32 - 1 ↔ code % 2 ^ 25 ≤ 21651921 ∨ 1322 ≤ code / 2 ^ 14 % 2 ^ 11) ∧
    (2 ^ 32 ≤ freqDecode code ↔ 21651922 ≤ code % 2 ^ 25 ∧ code % 2 ^ 25 ≤ 21659647) ∧
    (2 ^ 32 ≤ freqDecode code ↔ code / 2 ^ 14 % 2 ^ 11 = 1321 ∧ 8658 ≤ code % 2 ^ 14) ∧
    freqDecode code ≤ 4296499802) ∧
  freqDecode 0x014A7FFF = 4296499802 ∧
  (∀ s : State, ∃ t, exec .fdec s = .next t ∧ (t.res1.getLsbD 0 = true ↔ 2 ^ 32 ≤ freqDecode s.arg.toNat))

/-- R104: the largest value of each intermediate of the decode, and that each is reached. -/
def Obligations.DecodeIntermediateRanges : Prop :=
  (∀ code : Nat, codeLow code * stepK ≤ 3327796875 ∧ (codeLow code * stepK) >>> 9 ≤ 6499603 ∧ freqLow code ≤ 3249802 ∧
    codeHigh code * stepK ≤ 415796875 ∧ (codeHigh code * stepK) <<< 4 ≤ 6652750000 ∧ freqHigh code ≤ 4293250000 ∧
    freqDecode code ≤ 4296499802) ∧
  codeLow 0x3FFF * stepK = 3327796875 ∧ (codeLow 0x3FFF * stepK) >>> 9 = 6499603 ∧ freqLow 0x3FFF = 3249802 ∧
  codeHigh 0x01FFC000 * stepK = 415796875 ∧ (codeHigh 0x01FFC000 * stepK) <<< 4 = 6652750000 ∧
  freqHigh (1321 * 2 ^ 14) = 4293250000 ∧ freqDecode 0x014A7FFF = 4296499802

/-- R108: the largest value of each intermediate of the encode of a 32-bit frequency, and that each is reached. -/
def Obligations.EncodeIntermediateRanges : Prop :=
  (∀ f : Nat, f < 2 ^ 32 →
    f / stepK ≤ 21144 ∧ (f / stepK) <<< 11 ≤ 43302912 ∧ f % stepK ≤ 203124 ∧ (f % stepK) <<< 11 ≤ 415997952 ∧
    (f % stepK) <<< 11 / stepK ≤ 2047 ∧ encodeScaled f ≤ 43303842 ∧ freqEncode f ≤ 21651921) ∧
  4294967295 / stepK = 21144 ∧ (4294967295 / stepK) <<< 11 = 43302912 ∧ 203124 % stepK = 203124 ∧
  (203124 % stepK) <<< 11 = 415997952 ∧ (203124 % stepK) <<< 11 / stepK = 2047 ∧
  encodeScaled 4294967295 = 43303842 ∧ freqEncode 4294967295 = 21651921

/-- R109: the closed form of the encode, that ties cannot occur, and that it is non-decreasing. -/
def Obligations.EncodeClosedForm : Prop :=
  (∀ f : Nat, f < 2 ^ 32 → freqEncode f = (2048 * f + 203125) / 406250) ∧
  (∀ f n : Nat, 2048 * f ≠ 203125 * (2 * n + 1)) ∧
  (∀ f g : Nat, f ≤ g → freqEncode f ≤ freqEncode g)

/-- R110: the output range of the encode: its maximum and where it is reached, where it is 0 and 1, that the result is a code
of the design range, and that its image is the whole range. -/
def Obligations.EncodeOutputRange : Prop :=
  (∀ f : Nat, f < 2 ^ 32 →
    freqEncode f ≤ 21651921 ∧
    (freqEncode f = 21651921 ↔ 4294967141 ≤ f) ∧
    (freqEncode f = 0 ↔ f ≤ 99) ∧
    (freqEncode f = 1 ↔ 100 ≤ f ∧ f ≤ 297)) ∧
  (∀ s : State, ∃ t, exec .fenc s = .next t ∧ t.res0.toNat = freqEncode s.arg.toNat ∧
    t.res0.extractLsb' 25 7 = 0#7 ∧ (t.res0.extractLsb' 14 11).toNat ≤ 1321) ∧
  (∀ c : Nat, c ≤ 21651921 → ∃ f, f < 2 ^ 32 ∧ freqEncode f = c)

/-- R113: the code round trip. For every code up to 21,651,921, FDEC, its RES0 moved to ARG, and FENC give the code back.
That these are exactly the codes whose frequency fits 32 bits is read of the design range (log entry 11, DEDUCED). -/
def Obligations.CodeRoundTrip : Prop :=
  (∀ s : State, s.arg.toNat ≤ 21651921 → ∃ t u, exec .fdec s = .next t ∧ t.res1 = 0#32 ∧
    exec .fenc { t with arg := t.res0 } = .next u ∧ u.res0 = s.arg) ∧
  (∀ c : Nat, c / 2 ^ 14 ≤ 1321 → (c ≤ 21651921 ↔ freqDecode c < 2 ^ 32))

/-- R114: the frequency round trip is within 99 Hz, and the bound and the three discrepancies of 90_conflicts.md C1 are
reached. R114's "equality holds only when f is the decode of some code" is read as the exact round trip (log entry 11,
DEDUCED). -/
def Obligations.FrequencyRoundTrip : Prop :=
  (∀ f : Nat, f < 2 ^ 32 →
    freqDecode (freqEncode f) ≤ f + 99 ∧ f ≤ freqDecode (freqEncode f) + 99 ∧
    (freqDecode (freqEncode f) = f ↔ ∃ c, c ≤ 21651921 ∧ freqDecode c = f)) ∧
  (∀ s : State, ∃ t u, exec .fenc s = .next t ∧ exec .fdec { t with arg := t.res0 } = .next u ∧ u.res1 = 0#32 ∧
    u.res0.toNat ≤ s.arg.toNat + 99 ∧ s.arg.toNat ≤ u.res0.toNat + 99) ∧
  freqDecode (freqEncode 99) = 0 ∧ freqDecode (freqEncode 1623363792) = 1623363693 ∧
  freqDecode (freqEncode 2400000000) = 2400000031 ∧ freqDecode (freqEncode 2450000000) = 2449999924 ∧
  freqDecode (freqEncode 2500000000) = 2500000015

/-! ## The preamble codec -/

/-- R142: the closed form of the pack for every count, bounded or not (`Nat.size` is bitlen), and that the clamp acts exactly
from 524,288. -/
def Obligations.PackClosedForm : Prop :=
  ∀ p : Nat,
    prePack p = (min 15 (p >>> (min 15 (Nat.size p - 4))), min 15 (Nat.size p - 4)) ∧
    (15 < (halved p).1 ↔ 524288 ≤ p)

/-- R147: a packed byte is canonical, 136 bytes are, each canonical byte is the pack of its value, and a non-canonical one
packs to the canonical byte of the same value. -/
def Obligations.CanonicalBytesAreThePackedOnes : Prop :=
  (∀ p : Nat, (prePack p).1 ≤ 15 ∧ (prePack p).2 ≤ 15 ∧ ((prePack p).2 = 0 ∨ 8 ≤ (prePack p).1) ∧
    (15 < (halved p).1 → (prePack p).1 = 15) ∧ canonicalByte (preByte p) = true) ∧
  ((List.range 256).filter fun b => canonicalByte b && b / 16 == 0).length = 16 ∧
  ((List.range 256).filter fun b => canonicalByte b && b / 16 != 0).length = 15 * 8 ∧
  ((List.range 256).filter canonicalByte).length = 136 ∧
  ((List.range 256).filter fun b => !canonicalByte b).length = 120 ∧
  (∀ b : Nat, b < 256 → canonicalByte b = true →
    prePack (preValue b) = (b % 16, b / 16) ∧ preByte (preValue b) = b) ∧
  (∀ b : Nat, b < 256 → canonicalByte b = false →
    canonicalByte (preByte (preValue b)) = true ∧ preValue (preByte (preValue b)) = preValue b) ∧
  canonicalByte 0x12 = false ∧ preValue 0x12 = 4

/-- R148: packing the representable value again gives the same byte and value, for every count. -/
def Obligations.PackIsIdempotent : Prop :=
  ∀ p : Nat, preRep p = preValue (preByte p) ∧ prePack (preRep p) = prePack p ∧
    preByte (preRep p) = preByte p ∧ preRep (preRep p) = preRep p

/-- R149: the bounds of the representable value, for every count. -/
def Obligations.RepresentableValueBounds : Prop :=
  ∀ p : Nat,
    let m := (prePack p).1
    let e := (prePack p).2
    preRep p ≤ p ∧
    preRep p = m * 2 ^ e ∧ m ≤ 15 ∧ e ≤ 15 ∧ preRep p ≤ 491520 ∧
    (preRep p = p ↔ p ≤ 491520 ∧ p % 2 ^ e = 0) ∧
    (1 ≤ e → p ≤ 491520 → p - preRep p < 2 ^ e ∧ 8 * 2 ^ e ≤ preRep p)

/-- R150: saturation, and which of truncation and clamp gives mantissa 15. -/
def Obligations.PackSaturates : Prop :=
  ∀ p : Nat, 491520 ≤ p →
    prePack p = (15, 15) ∧ preByte p = 0xFF ∧ preRep p = 491520 ∧
    (491520 < p → preRep p < p) ∧
    (p < 524288 → (halved p).1 = 15) ∧
    (524288 ≤ p → 15 < (halved p).1)

/-- R151: every count of 2^19 or more packs alike, so PPACK of 0xFFFFFFFF gives the result of every larger count; truncating
2^32 to 32 bits would not. -/
def Obligations.ClampedCountsPackAsUnbounded : Prop :=
  (∀ p : Nat, 2 ^ 19 ≤ p → prePack p = (15, 15)) ∧
  (∀ (s : State) (p : Nat), s.arg = 0xFFFFFFFF#32 → 2 ^ 32 ≤ p →
    ∃ t, exec .ppack s = .next t ∧ t.res0.toNat = preRep p ∧ t.res1.toNat = preByte p) ∧
  (∀ s : State, s.arg.toNat = 2 ^ 32 % 2 ^ 32 → ∃ t, exec .ppack s = .next t ∧ t.res0 = 0#32 ∧ t.res1 = 0x00#32)

/-- R154: PUNPACK of PPACK's RES1 gives the same RES0 and RES1, for every 32-bit count. -/
def Obligations.UnpackAfterPackGivesSameResults : Prop :=
  ∀ s : State, ∃ t u, exec .ppack s = .next t ∧ exec .punpack { t with arg := t.res1 } = .next u ∧
    u.res0 = t.res0 ∧ u.res1 = t.res1
end

