-- ==== Sys2Proof/Laws/Frequency.lean ====
section
/-! SUPPORT. The bit fields and the frequency codec as division and remainder by literals, the form `omega` reads. -/

namespace Sys2Proof.Machine

theorem bits_eq (v hi lo : Nat) : bits v hi lo = v / 2 ^ lo % 2 ^ (hi - lo + 1) := by
  rw [bits, Nat.shiftRight_eq_div_pow]

theorem codeLow_eq (c : Nat) : codeLow c = c % 16384 :=
  Nat.and_two_pow_sub_one_eq_mod c 14

theorem codeHigh_eq (c : Nat) : codeHigh c = c / 16384 % 2048 := by
  rw [codeHigh, Nat.shiftRight_eq_div_pow]
  exact Nat.and_two_pow_sub_one_eq_mod _ 11

theorem codeIgnored_eq (a : Nat) : codeIgnored a = a / 33554432 % 128 := bits_eq a 31 25

theorem roundHalf_eq (v : Nat) : roundHalf v = (v + 1) / 2 := by
  have h : v &&& 1 = v % 2 := Nat.and_two_pow_sub_one_eq_mod v 1
  rw [roundHalf, h, Nat.shiftRight_eq_div_pow]
  omega

theorem freqLow_eq (c : Nat) : freqLow c = (c % 16384 * 203125 / 512 + 1) / 2 := by
  rw [freqLow, roundHalf_eq, codeLow_eq, Nat.shiftRight_eq_div_pow]
  rfl

theorem freqHigh_eq (c : Nat) : freqHigh c = c / 16384 % 2048 * 203125 * 16 % 4294967296 := by
  have h (n : Nat) : n &&& 0xFFFFFFFF = n % 4294967296 := Nat.and_two_pow_sub_one_eq_mod n 32
  rw [freqHigh, h, Nat.shiftLeft_eq, codeHigh_eq]
  rfl

/-- The decode with its two parts written out (R102). -/
theorem freqDecode_eq (c : Nat) :
    freqDecode c = (c % 16384 * 203125 / 512 + 1) / 2 + c / 16384 % 2048 * 203125 * 16 % 4294967296 := by
  rw [freqDecode, freqLow_eq, freqHigh_eq]

/-- The encode with its steps written out (R107). -/
theorem freqEncode_eq (f : Nat) :
    freqEncode f = (f / 203125 * 2048 + f % 203125 * 2048 / 203125 + 1) / 2 := by
  rw [freqEncode, roundHalf_eq, encodeScaled, Nat.shiftLeft_eq, Nat.shiftLeft_eq]
  rfl

end Sys2Proof.Machine
end

