-- ==== Sys2Proof/Laws/PerInstr.lean ====
section
/-! SUPPORT. What holds of every command as syntax, one lemma per constructor. -/

/-- A command is well formed, and its word has clear reserved bits and the command's opcode (R80 to R82). -/
def Sys2Proof.Laws.CommandWord.Statement (i : Sys2Proof.Instr) : Prop :=
  i.wellFormed = true ∧ Sys2Proof.cmdWordWellFormed (Sys2Proof.encode i) = true ∧
    Sys2Proof.cmdRsv (Sys2Proof.encode i) = 0#28 ∧ Sys2Proof.cmdOpc (Sys2Proof.encode i) = i.opcode

theorem Sys2Proof.Laws.CommandWord.fdec : Sys2Proof.Laws.CommandWord.Statement .fdec := by
  unfold Sys2Proof.Laws.CommandWord.Statement; decide

theorem Sys2Proof.Laws.CommandWord.fenc : Sys2Proof.Laws.CommandWord.Statement .fenc := by
  unfold Sys2Proof.Laws.CommandWord.Statement; decide

theorem Sys2Proof.Laws.CommandWord.ppack : Sys2Proof.Laws.CommandWord.Statement .ppack := by
  unfold Sys2Proof.Laws.CommandWord.Statement; decide

theorem Sys2Proof.Laws.CommandWord.punpack : Sys2Proof.Laws.CommandWord.Statement .punpack := by
  unfold Sys2Proof.Laws.CommandWord.Statement; decide
end

