-- ==== Sys2Proof/Laws/Preamble.lean ====
section
/-! SUPPORT. The preamble codec: what the halving loop can do, said once, and the packed byte's fields as division and
remainder. -/

namespace Sys2Proof.Machine

theorem packedOperand_eq (a : Nat) : packedOperand a = a % 256 := by
  rw [packedOperand, bits_eq]
  simp

theorem packedIgnored_eq (a : Nat) : packedIgnored a = a / 256 % 16777216 := bits_eq a 31 8

theorem byteMantissa_eq (b : Nat) : byteMantissa b = b % 16 :=
  Nat.and_two_pow_sub_one_eq_mod b 4

theorem byteExponent_eq (b : Nat) : byteExponent b = b / 16 % 16 := by
  rw [byteExponent, Nat.shiftRight_eq_div_pow]
  exact Nat.and_two_pow_sub_one_eq_mod _ 4

theorem packByte_eq {m e : Nat} (hm : m < 16) : packByte m e = 16 * e + m := by
  rw [packByte, ← Nat.shiftLeft_add_eq_or_of_lt (i := 4) hm, Nat.shiftLeft_eq, Nat.mul_comm]

theorem preRep_eq (p : Nat) : preRep p = (prePack p).1 * 2 ^ (prePack p).2 := by
  rw [preRep, Nat.shiftLeft_eq]

theorem preValue_eq (b : Nat) : preValue b = b % 16 * 2 ^ (b / 16 % 16) := by
  rw [preValue, Nat.shiftLeft_eq, byteMantissa_eq, byteExponent_eq]

/-- What the halving loop does (R141 step 2): `k` passes, each on a mantissa above 15, until the mantissa is at most 15 or
the exponent is 15. -/
theorem halveLoop_spec (fuel m e : Nat) (h : fuel + e = 15) :
    ∃ k, k ≤ fuel ∧ halveLoop fuel m e = (m / 2 ^ k, e + k) ∧
      (k = 0 ∨ 15 < m / 2 ^ (k - 1)) ∧ (m / 2 ^ k ≤ 15 ∨ k = fuel) := by
  induction fuel generalizing m e with
  | zero => exact ⟨0, by simp [halveLoop]⟩
  | succ n ih =>
    by_cases hm : m > 15
    · by_cases he : e + 1 = 15
      · have hn : n = 0 := by omega
        subst hn
        exact ⟨1, le_refl _, by simp [halveLoop, hm, he, Nat.shiftRight_eq_div_pow], .inr (by simpa using hm), .inr rfl⟩
      · obtain ⟨k, hk, hl, hlo, hhi⟩ := ih (m >>> 1) (e + 1) (by omega)
        have hd (j : Nat) : m >>> 1 / 2 ^ j = m / 2 ^ (j + 1) := by
          rw [Nat.shiftRight_eq_div_pow, Nat.div_div_eq_div_mul, ← Nat.pow_add, Nat.add_comm]
        refine ⟨k + 1, by omega, ?_, .inr ?_, ?_⟩
        · simp only [halveLoop, hm, he, if_true, if_false, hl, hd]
          rw [Nat.add_assoc, Nat.add_comm 1 k]
        · rcases hlo with rfl | hlo
          · simpa using hm
          · rcases k with _ | k
            · simpa using hm
            · simpa [hd] using hlo
        · rw [hd] at hhi
          omega
    · exact ⟨0, by omega, by simp [halveLoop, hm], .inl rfl, .inl (by simpa using hm)⟩

/-- The loop from exponent 0: its exponent is the number of halvings. -/
theorem halved_spec (p : Nat) :
    ∃ k, k ≤ 15 ∧ halved p = (p / 2 ^ k, k) ∧ (k = 0 ∨ 15 < p / 2 ^ (k - 1)) ∧ (p / 2 ^ k ≤ 15 ∨ k = 15) := by
  obtain ⟨k, hk, h, hlo, hhi⟩ := halveLoop_spec 15 p 0 rfl
  exact ⟨k, hk, by simpa [halved] using h, hlo, hhi⟩

/-- The clamp of R141 step 3 is a minimum, and leaves the exponent. -/
theorem prePack_eq (p : Nat) : prePack p = (min 15 (halved p).1, (halved p).2) := by
  rw [prePack]
  split <;> congr 1 <;> omega

/-- The size of a representable value: mantissa and exponent are at most 15 (R149). -/
theorem prePack_le (p : Nat) : (prePack p).1 ≤ 15 ∧ (prePack p).2 ≤ 15 := by
  obtain ⟨k, hk, h, -, -⟩ := halved_spec p
  rw [prePack_eq, h]
  exact ⟨Nat.min_le_left _ _, hk⟩

end Sys2Proof.Machine
end

