-- ==== Sys2Proof/Laws/State.lean ====
section
/-! SUPPORT. One lemma per field of the state per named update, so that no later proof unfolds a record update. -/

namespace Sys2Proof.Machine

@[simp] theorem State.complete_arg (s : State) (op : BitVec 4) (r : CmdResult) : (s.complete op r).arg = s.arg := rfl
@[simp] theorem State.complete_res0 (s : State) (op : BitVec 4) (r : CmdResult) : (s.complete op r).res0 = r.r0 := rfl
@[simp] theorem State.complete_res1 (s : State) (op : BitVec 4) (r : CmdResult) : (s.complete op r).res1 = r.r1 := rfl
@[simp] theorem State.complete_err (s : State) (op : BitVec 4) (r : CmdResult) : (s.complete op r).err = s.err := rfl
@[simp] theorem State.complete_wrap (s : State) (op : BitVec 4) (r : CmdResult) : (s.complete op r).wrap = r.w := rfl
@[simp] theorem State.complete_ign (s : State) (op : BitVec 4) (r : CmdResult) : (s.complete op r).ign = r.i := rfl
@[simp] theorem State.complete_inexact (s : State) (op : BitVec 4) (r : CmdResult) : (s.complete op r).inexact = r.q := rfl
@[simp] theorem State.complete_sat (s : State) (op : BitVec 4) (r : CmdResult) : (s.complete op r).sat = r.s := rfl
@[simp] theorem State.complete_lastop (s : State) (op : BitVec 4) (r : CmdResult) : (s.complete op r).lastop = op := rfl
@[simp] theorem State.complete_errcause (s : State) (op : BitVec 4) (r : CmdResult) : (s.complete op r).errcause = s.errcause := rfl
@[simp] theorem State.complete_inbox (s : State) (op : BitVec 4) (r : CmdResult) : (s.complete op r).inbox = s.inbox := rfl
@[simp] theorem State.complete_resp (s : State) (op : BitVec 4) (r : CmdResult) : (s.complete op r).resp = s.resp := rfl

@[simp] theorem State.raiseIllegal_arg (s : State) (c : Cause) : (s.raiseIllegal c).arg = s.arg := rfl
@[simp] theorem State.raiseIllegal_res0 (s : State) (c : Cause) : (s.raiseIllegal c).res0 = s.res0 := rfl
@[simp] theorem State.raiseIllegal_res1 (s : State) (c : Cause) : (s.raiseIllegal c).res1 = s.res1 := rfl
@[simp] theorem State.raiseIllegal_err (s : State) (c : Cause) : (s.raiseIllegal c).err = true := rfl
@[simp] theorem State.raiseIllegal_wrap (s : State) (c : Cause) : (s.raiseIllegal c).wrap = s.wrap := rfl
@[simp] theorem State.raiseIllegal_ign (s : State) (c : Cause) : (s.raiseIllegal c).ign = s.ign := rfl
@[simp] theorem State.raiseIllegal_inexact (s : State) (c : Cause) : (s.raiseIllegal c).inexact = s.inexact := rfl
@[simp] theorem State.raiseIllegal_sat (s : State) (c : Cause) : (s.raiseIllegal c).sat = s.sat := rfl
@[simp] theorem State.raiseIllegal_lastop (s : State) (c : Cause) : (s.raiseIllegal c).lastop = s.lastop := rfl
@[simp] theorem State.raiseIllegal_errcause (s : State) (c : Cause) : (s.raiseIllegal c).errcause = c.code := rfl
@[simp] theorem State.raiseIllegal_inbox (s : State) (c : Cause) : (s.raiseIllegal c).inbox = s.inbox := rfl
@[simp] theorem State.raiseIllegal_resp (s : State) (c : Cause) : (s.raiseIllegal c).resp = s.resp := rfl

@[simp] theorem State.writeArg_arg (s : State) (v : Word) : (s.writeArg v).arg = v := rfl
@[simp] theorem State.writeArg_res0 (s : State) (v : Word) : (s.writeArg v).res0 = s.res0 := rfl
@[simp] theorem State.writeArg_res1 (s : State) (v : Word) : (s.writeArg v).res1 = s.res1 := rfl
@[simp] theorem State.writeArg_err (s : State) (v : Word) : (s.writeArg v).err = s.err := rfl
@[simp] theorem State.writeArg_wrap (s : State) (v : Word) : (s.writeArg v).wrap = s.wrap := rfl
@[simp] theorem State.writeArg_ign (s : State) (v : Word) : (s.writeArg v).ign = s.ign := rfl
@[simp] theorem State.writeArg_inexact (s : State) (v : Word) : (s.writeArg v).inexact = s.inexact := rfl
@[simp] theorem State.writeArg_sat (s : State) (v : Word) : (s.writeArg v).sat = s.sat := rfl
@[simp] theorem State.writeArg_lastop (s : State) (v : Word) : (s.writeArg v).lastop = s.lastop := rfl
@[simp] theorem State.writeArg_errcause (s : State) (v : Word) : (s.writeArg v).errcause = s.errcause := rfl
@[simp] theorem State.writeArg_inbox (s : State) (v : Word) : (s.writeArg v).inbox = s.inbox := rfl
@[simp] theorem State.writeArg_resp (s : State) (v : Word) : (s.writeArg v).resp = s.resp := rfl

@[simp] theorem State.respond_arg (s : State) (r : Response) : (s.respond r).arg = s.arg := rfl
@[simp] theorem State.respond_res0 (s : State) (r : Response) : (s.respond r).res0 = s.res0 := rfl
@[simp] theorem State.respond_res1 (s : State) (r : Response) : (s.respond r).res1 = s.res1 := rfl
@[simp] theorem State.respond_err (s : State) (r : Response) : (s.respond r).err = s.err := rfl
@[simp] theorem State.respond_wrap (s : State) (r : Response) : (s.respond r).wrap = s.wrap := rfl
@[simp] theorem State.respond_ign (s : State) (r : Response) : (s.respond r).ign = s.ign := rfl
@[simp] theorem State.respond_inexact (s : State) (r : Response) : (s.respond r).inexact = s.inexact := rfl
@[simp] theorem State.respond_sat (s : State) (r : Response) : (s.respond r).sat = s.sat := rfl
@[simp] theorem State.respond_lastop (s : State) (r : Response) : (s.respond r).lastop = s.lastop := rfl
@[simp] theorem State.respond_errcause (s : State) (r : Response) : (s.respond r).errcause = s.errcause := rfl
@[simp] theorem State.respond_inbox (s : State) (r : Response) : (s.respond r).inbox = s.inbox := rfl
@[simp] theorem State.respond_resp (s : State) (r : Response) : (s.respond r).resp = some r := rfl

@[simp] theorem State.accept_arg (s : State) (rest : List Event) : (s.accept rest).arg = s.arg := rfl
@[simp] theorem State.accept_res0 (s : State) (rest : List Event) : (s.accept rest).res0 = s.res0 := rfl
@[simp] theorem State.accept_res1 (s : State) (rest : List Event) : (s.accept rest).res1 = s.res1 := rfl
@[simp] theorem State.accept_err (s : State) (rest : List Event) : (s.accept rest).err = s.err := rfl
@[simp] theorem State.accept_wrap (s : State) (rest : List Event) : (s.accept rest).wrap = s.wrap := rfl
@[simp] theorem State.accept_ign (s : State) (rest : List Event) : (s.accept rest).ign = s.ign := rfl
@[simp] theorem State.accept_inexact (s : State) (rest : List Event) : (s.accept rest).inexact = s.inexact := rfl
@[simp] theorem State.accept_sat (s : State) (rest : List Event) : (s.accept rest).sat = s.sat := rfl
@[simp] theorem State.accept_lastop (s : State) (rest : List Event) : (s.accept rest).lastop = s.lastop := rfl
@[simp] theorem State.accept_errcause (s : State) (rest : List Event) : (s.accept rest).errcause = s.errcause := rfl
@[simp] theorem State.accept_inbox (s : State) (rest : List Event) : (s.accept rest).inbox = rest := rfl
@[simp] theorem State.accept_resp (s : State) (rest : List Event) : (s.accept rest).resp = s.resp := rfl

@[simp] theorem State.resetBlock_arg (s : State) (a : Option Response) : (s.resetBlock a).arg = 0#32 := rfl
@[simp] theorem State.resetBlock_res0 (s : State) (a : Option Response) : (s.resetBlock a).res0 = 0#32 := rfl
@[simp] theorem State.resetBlock_res1 (s : State) (a : Option Response) : (s.resetBlock a).res1 = 0#32 := rfl
@[simp] theorem State.resetBlock_err (s : State) (a : Option Response) : (s.resetBlock a).err = false := rfl
@[simp] theorem State.resetBlock_wrap (s : State) (a : Option Response) : (s.resetBlock a).wrap = false := rfl
@[simp] theorem State.resetBlock_ign (s : State) (a : Option Response) : (s.resetBlock a).ign = false := rfl
@[simp] theorem State.resetBlock_inexact (s : State) (a : Option Response) : (s.resetBlock a).inexact = false := rfl
@[simp] theorem State.resetBlock_sat (s : State) (a : Option Response) : (s.resetBlock a).sat = false := rfl
@[simp] theorem State.resetBlock_lastop (s : State) (a : Option Response) : (s.resetBlock a).lastop = 0#4 := rfl
@[simp] theorem State.resetBlock_errcause (s : State) (a : Option Response) : (s.resetBlock a).errcause = 0#4 := rfl
@[simp] theorem State.resetBlock_inbox (s : State) (a : Option Response) : (s.resetBlock a).inbox = s.inbox := rfl
@[simp] theorem State.resetBlock_resp (s : State) (a : Option Response) : (s.resetBlock a).resp = a := rfl

@[simp] theorem State.writeStatus_arg (s : State) (d : Word) : (s.writeStatus d).arg = s.arg := by
  unfold State.writeStatus; cases d.getLsbD 0 <;> simp
@[simp] theorem State.writeStatus_res0 (s : State) (d : Word) : (s.writeStatus d).res0 = s.res0 := by
  unfold State.writeStatus; cases d.getLsbD 0 <;> simp
@[simp] theorem State.writeStatus_res1 (s : State) (d : Word) : (s.writeStatus d).res1 = s.res1 := by
  unfold State.writeStatus; cases d.getLsbD 0 <;> simp
@[simp] theorem State.writeStatus_err (s : State) (d : Word) : (s.writeStatus d).err = (s.err && !d.getLsbD 0) := by
  unfold State.writeStatus; cases d.getLsbD 0 <;> simp
@[simp] theorem State.writeStatus_wrap (s : State) (d : Word) : (s.writeStatus d).wrap = s.wrap := by
  unfold State.writeStatus; cases d.getLsbD 0 <;> simp
@[simp] theorem State.writeStatus_ign (s : State) (d : Word) : (s.writeStatus d).ign = s.ign := by
  unfold State.writeStatus; cases d.getLsbD 0 <;> simp
@[simp] theorem State.writeStatus_inexact (s : State) (d : Word) : (s.writeStatus d).inexact = s.inexact := by
  unfold State.writeStatus; cases d.getLsbD 0 <;> simp
@[simp] theorem State.writeStatus_sat (s : State) (d : Word) : (s.writeStatus d).sat = s.sat := by
  unfold State.writeStatus; cases d.getLsbD 0 <;> simp
@[simp] theorem State.writeStatus_lastop (s : State) (d : Word) : (s.writeStatus d).lastop = s.lastop := by
  unfold State.writeStatus; cases d.getLsbD 0 <;> simp
@[simp] theorem State.writeStatus_errcause (s : State) (d : Word) : (s.writeStatus d).errcause = if d.getLsbD 0 then 0#4 else s.errcause := by
  unfold State.writeStatus; cases d.getLsbD 0 <;> simp
@[simp] theorem State.writeStatus_inbox (s : State) (d : Word) : (s.writeStatus d).inbox = s.inbox := by
  unfold State.writeStatus; cases d.getLsbD 0 <;> simp
@[simp] theorem State.writeStatus_resp (s : State) (d : Word) : (s.writeStatus d).resp = s.resp := by
  unfold State.writeStatus; cases d.getLsbD 0 <;> simp

/-- The operand of a command is ARG as a number. -/
@[simp] theorem State.operand_eq (s : State) : s.operand = s.arg.toNat := rfl

end Sys2Proof.Machine
end

