-- ==== Sys2Proof/Laws/Step.lean ====
section
/-! SUPPORT. What a command, an access and a step can do, each said once. Later proofs cite these instead of unfolding. -/

namespace Sys2Proof.Machine

/-- The result a command computes from its operand. -/
def cmdResult : Instr → Nat → CmdResult
  | .fdec => fdecResult
  | .fenc => fencResult
  | .ppack => ppackResult
  | .punpack => punpackResult

/-- Every command is the one shared update on its own result (R93). -/
theorem exec_eq (i : Instr) (s : State) : exec i s = .next (s.complete i.opcode (cmdResult i s.arg.toNat)) := by
  cases i <;> rfl

@[simp] theorem write_admitted (off : Fin 64) (d : Word) :
    Access.admitted ⟨off, .w32, .write d⟩ = decide (off.val % 4 = 0) := by
  have := off.isLt
  simp [Access.admitted, Width.bytes]
  omega

@[simp] theorem read_admitted (off : Fin 64) :
    Access.admitted ⟨off, .w32, .read⟩ = decide (off.val % 4 = 0) := by
  have := off.isLt
  simp [Access.admitted, Width.bytes]
  omega

/-- The state in which the first event is served. -/
theorem step_cons (s : State) (e : Event) (rest : List Event) (h : s.inbox = e :: rest) :
    step s = serveEvent e (s.accept rest) := by
  simp [step, h]

theorem step_nil (s : State) (h : s.inbox = []) : step s = .next s := by
  simp [step, h, waitForHost]

/-- The accepted state of a state whose inbox is set does not show the old inbox. -/
@[simp] theorem accept_setInbox (s : State) (l rest : List Event) :
    ({ s with inbox := l } : State).accept rest = { s with inbox := rest } := rfl

/-- A step that serves an access. -/
theorem step_access (s : State) (a : Access) (rest : List Event) :
    step { s with inbox := .access a :: rest } = serveAccess a { s with inbox := rest } := rfl

/-- A step that serves a 32-bit write at a word offset. -/
theorem step_write (s : State) (off : Fin 64) (d : Word) (rest : List Event) (h : off.val % 4 = 0) :
    step { s with inbox := Event.write off d :: rest } = hostWrite off d { s with inbox := rest } := by
  rw [Event.write, step_access, serveAccess, write_admitted]
  simp [h]

/-- A step that serves a 32-bit read at a word offset. -/
theorem step_read (s : State) (off : Fin 64) (rest : List Event) (h : off.val % 4 = 0) :
    step { s with inbox := Event.read off :: rest } = hostRead off { s with inbox := rest } := by
  rw [Event.read, step_access, serveAccess, read_admitted]
  simp [h]

/-- A command word placed for the host's check is run by the very next step. -/
theorem step_withFetchWord (s : State) (i : Instr) :
    step (s.withFetchWord 32 (encode i).toNat) = exec i (s.respond .done) := by
  have h : s.withFetchWord 32 (encode i).toNat = { s with inbox := Event.write 0x04 (encode i) :: s.inbox } := by
    cases i <;> rfl
  have hd : decodeCmd (encode i) = .command i := by cases i <;> decide
  rw [h, step_write _ _ _ _ (by decide)]
  show runCmd (encode i) s = _
  rw [runCmd, hd]

/-- Everything an access can do (R51, R54 to R58, R93, R181, R184): it is answered, and at most one of five updates is made. -/
inductive AccessEffect (a : Access) (s : State) : State → Prop
  | error (h : a.admitted = false) : AccessEffect a s (s.respond (.error a.off))
  | read (h : a.admitted = true) (hk : a.kind = .read) : AccessEffect a s (s.respond (.data (s.readWindow a.off)))
  | ignored (h : a.admitted = true) (v : Word) (hk : a.kind = .write v) (h0 : 12 ≤ a.off.val) :
      AccessEffect a s (s.respond .done)
  | arg (v : Word) (ha : a = ⟨0x00, .w32, .write v⟩) : AccessEffect a s ((s.respond .done).writeArg v)
  | status (d : Word) (ha : a = ⟨0x08, .w32, .write d⟩) : AccessEffect a s ((s.respond .done).writeStatus d)
  | illegal (d : Word) (c : Cause) (hd : decodeCmd d = .illegal c) (ha : a = ⟨0x04, .w32, .write d⟩) :
      AccessEffect a s ((s.respond .done).raiseIllegal c)
  | command (d : Word) (i : Instr) (hd : decodeCmd d = .command i) (ha : a = ⟨0x04, .w32, .write d⟩) :
      AccessEffect a s ((s.respond .done).complete i.opcode (cmdResult i s.arg.toNat))

/-- Which register a word offset names. -/
theorem regAt_cases (off : Fin 64) :
    (off = 0x00 ∧ regAt off = some .arg) ∨ (off = 0x04 ∧ regAt off = some .cmd) ∨
    (off = 0x08 ∧ regAt off = some .status) ∨ (off = 0x0C ∧ regAt off = some .res0) ∨
    (off = 0x10 ∧ regAt off = some .res1) ∨ (regAt off = none ∧ (12 < off.val ∨ off.val % 4 ≠ 0)) := by
  revert off
  decide

/-- Every access is served, with one of the effects above. -/
theorem serveAccess_spec (a : Access) (s : State) : ∃ t, serveAccess a s = .next t ∧ AccessEffect a s t := by
  obtain ⟨off, w, k⟩ := a
  by_cases h : Access.admitted ⟨off, w, k⟩ = true
  · cases k with
    | read => exact ⟨_, by simp only [serveAccess, h, if_true, hostRead], .read h rfl⟩
    | write d =>
      have hp := h
      simp only [Access.admitted, Bool.and_eq_true, decide_eq_true_eq] at hp
      obtain ⟨⟨rfl, hal⟩, -⟩ := hp
      rcases regAt_cases off with ⟨rfl, hr⟩ | ⟨rfl, hr⟩ | ⟨rfl, hr⟩ | ⟨rfl, hr⟩ | ⟨rfl, hr⟩ | ⟨hr, ho⟩
      · exact ⟨_, by simp only [serveAccess, h, if_true, hostWrite, hr], .arg d rfl⟩
      · cases hd : decodeCmd d with
        | illegal c => exact ⟨_, by simp only [serveAccess, h, if_true, hostWrite, hr, runCmd, hd], .illegal d c hd rfl⟩
        | command i =>
          exact ⟨_, by simp only [serveAccess, h, if_true, hostWrite, hr, runCmd, hd, exec_eq]; rfl, .command d i hd rfl⟩
      · exact ⟨_, by simp only [serveAccess, h, if_true, hostWrite, hr], .status d rfl⟩
      · exact ⟨_, by simp only [serveAccess, h, if_true, hostWrite, hr], .ignored h d rfl (Nat.le_of_ble_eq_true rfl)⟩
      · exact ⟨_, by simp only [serveAccess, h, if_true, hostWrite, hr], .ignored h d rfl (Nat.le_of_ble_eq_true rfl)⟩
      · exact ⟨_, by simp only [serveAccess, h, if_true, hostWrite, hr], .ignored h d rfl (by simp only; omega)⟩
  · have hf : Access.admitted ⟨off, w, k⟩ = false := by simpa using h
    exact ⟨_, by simp [serveAccess, hf], .error hf⟩

/-- Everything a step can do: wait, serve an access, or be reset. -/
theorem step_spec (s : State) :
    (s.inbox = [] ∧ step s = .next s) ∨
    (∃ a rest t, s.inbox = .access a :: rest ∧ step s = .next t ∧ AccessEffect a (s.accept rest) t) ∨
    (∃ rest, s.inbox = .reset :: rest ∧ step s = .next ((s.accept rest).resetBlock none)) ∨
    (∃ d answer rest, s.inbox = .resetDuringCmd d answer :: rest ∧
      step s = .next ((s.accept rest).resetBlock answer)) := by
  cases h : s.inbox with
  | nil => exact .inl ⟨rfl, step_nil s h⟩
  | cons e rest =>
    rw [step_cons s e rest h]
    cases e with
    | access a =>
      obtain ⟨t, ht, he⟩ := serveAccess_spec a (s.accept rest)
      exact .inr (.inl ⟨a, rest, t, rfl, ht, he⟩)
    | reset => exact .inr (.inr (.inl ⟨rest, rfl, rfl⟩))
    | resetDuringCmd d answer => exact .inr (.inr (.inr ⟨d, answer, rest, rfl, rfl⟩))

end Sys2Proof.Machine
end

