-- ==== Sys2Proof/Tests/Slice0.lean ====
section
/-! SUPPORT. Tests of single steps, with the values of spec/95_test_vectors.md (sections 2.1 to 2.6 and 3), the smoke tests
of the well-formedness checks, and for every statement with hypotheses a concrete input that meets them. -/

namespace Sys2Proof.Machine.Tests

/-- The reset state with a value in ARG. -/
def withArg (v : Word) : State := { State.reset with arg := v }

/-- The state after an illegal command: STATUS = 0x00001001 (section 2.6). -/
def afterIllegal : State := { State.reset with err := true, errcause := 1#4 }

/-- ARG, RES0, RES1 and STATUS of a next state, the columns of section 3's tables. -/
def registersOf : Host.Outcome State Fault Refusal → Option (Word × Word × Word × Word)
  | .next t => some (t.arg, t.res0, t.res1, t.statusWord)
  | _ => none

/-- The bus response of a next state. -/
def answerOf : Host.Outcome State Fault Refusal → Option Response
  | .next t => t.resp
  | _ => none

/-- The next state, if any. -/
def nextOf : Host.Outcome State Fault Refusal → Option State
  | .next t => some t
  | _ => none

/-- One step on one event. -/
def serve (s : State) (e : Event) : Host.Outcome State Fault Refusal := step { s with inbox := [e] }

/-! Well-formedness: an ill-formed term for each check, which the check refuses. -/

theorem test_rsvClear_refuses_reserved_bits : rsvClear 0x00000011#32 = false := by decide
theorem test_opcAssigned_refuses_opcode_zero : opcAssigned 0x00000000#32 = false := by decide
theorem test_opcAssigned_refuses_opcode_five : opcAssigned 0x00000005#32 = false := by decide
theorem test_cmdWordWellFormed_refuses_bit_31 : cmdWordWellFormed 0x80000001#32 = false := by decide
theorem test_cmdWordWellFormed_takes_punpack : cmdWordWellFormed 0x00000004#32 = true := by decide
theorem test_admitted_refuses_width : Access.admitted ⟨0x00, .w8, .write 5#32⟩ = false := by decide
theorem test_admitted_refuses_misaligned : Access.admitted ⟨0x02, .w32, .read⟩ = false := by decide
theorem test_admitted_refuses_crossing : Access.admitted ⟨0x3C, .w64, .read⟩ = false := by decide

/-! Decoding: the words of R82's table and of section 2.5, written out. -/

theorem test_decode_fdec : decodeCmd 0b00000000000000000000000000000001#32 = .command .fdec := by decide
theorem test_decode_fenc : decodeCmd 0b00000000000000000000000000000010#32 = .command .fenc := by decide
theorem test_decode_ppack : decodeCmd 0b00000000000000000000000000000011#32 = .command .ppack := by decide
theorem test_decode_punpack : decodeCmd 0b00000000000000000000000000000100#32 = .command .punpack := by decide
theorem test_decode_refuses_zero : decodeCmd 0x00000000#32 = .illegal .reservedOpcode := by decide
theorem test_decode_reserved_bits_win : decodeCmd 0x000000F5#32 = .illegal .reservedBits := by decide
theorem test_decodeTableWord : decodeTableWord 32 3 = some .ppack ∧ decodeTableWord 32 5 = none := by decide
/-- No command is shorter or longer than 32 bits (R80). -/
theorem test_decodeTableWord_one_length : decodeTableWord 3 3 = none ∧ decodeTableWord 64 3 = none ∧
    decodeTableWord 32 (2 ^ 32 + 1) = none := by decide

/-! The commands (sections 2.1 to 2.4). -/

theorem test_fdec_needs_bit_32 : registersOf (exec .fdec (withArg 0x014A7FFF#32)) =
    some (0x014A7FFF#32, 0x0017625A#32, 0x00000001#32, 0x00000100#32) := by decide
theorem test_fdec_wraps_and_ignores : registersOf (exec .fdec (withArg 0xFFFFFFFF#32)) =
    some (0xFFFFFFFF#32, 0x8CBA7F3A#32, 0x00000000#32, 0x00000106#32) := by decide
theorem test_fenc_2450_MHz : registersOf (exec .fenc (withArg 0x92080880#32)) =
    some (0x92080880#32, 0x00BC7627#32, 0x00000000#32, 0x00000200#32) := by decide
theorem test_fenc_rounding_boundary : registersOf (exec .fenc (withArg 0x00000064#32)) =
    some (0x00000064#32, 0x00000001#32, 0x00000000#32, 0x00000200#32) := by decide
theorem test_ppack_truncates : registersOf (exec .ppack (withArg 262143#32)) =
    some (262143#32, 245760#32, 0x000000EF#32, 0x00000308#32) := by decide
theorem test_ppack_saturates : registersOf (exec .ppack (withArg 500000#32)) =
    some (500000#32, 491520#32, 0x000000FF#32, 0x00000318#32) := by decide
theorem test_punpack_non_canonical : registersOf (exec .punpack (withArg 0x00000012#32)) =
    some (0x00000012#32, 4#32, 0x00000012#32, 0x00000400#32) := by decide
theorem test_punpack_ignores_high_bits : registersOf (exec .punpack (withArg 0xFFFFFF18#32)) =
    some (0xFFFFFF18#32, 16#32, 0x00000018#32, 0x00000404#32) := by decide

/-! Illegal commands, the register window and reset (sections 2.5, 2.6 and 3, P4). -/

theorem test_illegal_opcode_recorded : registersOf (serve (withArg 5#32) (Event.write 0x04 0x0000000F#32)) =
    some (5#32, 0#32, 0#32, 0x00001001#32) := by decide
theorem test_illegal_bits_recorded : registersOf (serve (withArg 5#32) (Event.write 0x04 0x00000011#32)) =
    some (5#32, 0#32, 0#32, 0x00002001#32) := by decide
theorem test_status_write_without_bit_0 : registersOf (serve afterIllegal (Event.write 0x08 0xFFFFFFFE#32)) =
    some (0#32, 0#32, 0#32, 0x00001001#32) := by decide
theorem test_clrerr : (Pseudo.clrerr.events.map fun e => registersOf (serve afterIllegal e)) =
    [some (0#32, 0#32, 0#32, 0x00000000#32)] := by decide
theorem test_write_res0_ignored : registersOf (serve State.reset (Event.write 0x0C 0x12345678#32)) =
    some (0#32, 0#32, 0#32, 0#32) := by decide
theorem test_read_cmd_is_zero : answerOf (serve (withArg 1#32) (Event.read 0x04)) = some (.data 0#32) := by decide
theorem test_read_reserved_is_zero : answerOf (serve (withArg 1#32) (Event.read 0x20)) = some (.data 0#32) := by decide
theorem test_read_status : answerOf (serve afterIllegal (Event.read 0x08)) = some (.data 0x00001001#32) := by decide
theorem test_byte_write_is_bus_error :
    nextOf (serve (withArg 7#32) (.access ⟨0x00, .w8, .write 5#32⟩)) =
      some { withArg 7#32 with resp := some (.error 0x00) } := by decide
theorem test_reset_clears : registersOf (serve { afterIllegal with arg := 9#32 } .reset) =
    some (0#32, 0#32, 0#32, 0#32) := by decide
theorem test_withFetchWord_runs_first : registersOf (step (State.reset.withFetchWord 32 4)) =
    some (0#32, 0#32, 0#32, 0x00000400#32) := by decide
/-- No shorter or longer word is written to CMD (R80). -/
theorem test_withFetchWord_one_length : State.reset.withFetchWord 3 3 = State.reset ∧
    State.reset.withFetchWord 64 (2 ^ 32 + 1) = State.reset := by decide

/-! A concrete input that meets the hypotheses of each statement, clause by clause at the edges of its range. -/

theorem witness_LegalWordsAreOneToFour :
    ((0#32 : Word).toNat = 0) ∧ 4 < (5#32 : Word).toNat ∧ 4 < (0xFFFFFFFF#32 : Word).toNat := by decide
theorem witness_WritesPerCommand :
    decodeCmd 0x00000005#32 = .illegal .reservedOpcode ∧ (0x00000001#32 : Word).getLsbD 0 = true := by decide
theorem witness_FlagStatements :
    (Instr.fenc = .fenc ∨ Instr.fenc = .ppack) ∧ (Instr.punpack = .fdec ∨ Instr.punpack = .fenc ∨ Instr.punpack = .punpack) := by
  decide
theorem witness_LastopRecordsLastLegalCommand :
    decodeCmd 0x00000000#32 = .illegal .reservedOpcode ∧
      ∃ t, runSteps 1 { State.reset with inbox := [Event.read 0x08] } = .next t ∧ t.lastop = 0x0#4 :=
  ⟨by decide, _, rfl, rfl⟩
/-- A command before a reset: the events meet the condition under which LASTOP is 0. -/
theorem witness_LastopRecordsLastLegalCommand_reset :
    (Event.write 0x04 (encode .fenc)).runsCommand ∧ Event.reset.resets ∧
      [Event.write 0x04 (encode .fenc), .reset].take 2 = [] ++ Event.write 0x04 (encode .fenc) :: [.reset] :=
  ⟨⟨_, rfl⟩, .inl rfl, rfl⟩
theorem witness_ErrIsStickyAndNoStop :
    decodeCmd 0x00000000#32 = .illegal .reservedOpcode ∧
    (Event.write 0x08 0x00000001#32).clearsError ∧ Event.reset.resets ∧ (Event.resetDuringCmd 1#32 none).resets ∧
    ∃ s t, step s = .next t ∧ s.err = true ∧ t.err = false :=
  ⟨by decide, ⟨_, by decide, rfl⟩, .inl rfl, .inr ⟨_, _, rfl⟩, { afterIllegal with inbox := [.reset] }, _, rfl, rfl, rfl⟩
theorem witness_ErrcauseHoldsNewestCause :
    decodeCmd 0x0000000F#32 = .illegal .reservedOpcode ∧ decodeCmd 0x00000010#32 = .illegal .reservedBits ∧
    ∃ s t, step s = .next t ∧ s.err = true ∧ t.err = false :=
  ⟨by decide, by decide, { afterIllegal with inbox := [.reset] }, _, rfl, rfl, rfl⟩
theorem witness_IllegalCommandIsRecordedOnly : decodeCmd 0xFFFFFFF1#32 = .illegal .reservedBits := by decide
theorem witness_ReservedBitsWinOverReservedOpcode :
    (0x00000011#32 : Word).extractLsb' 4 28 ≠ 0#28 ∧
    ((0x00000000#32 : Word).extractLsb' 4 28 = 0#28 ∧ (0x00000000#32 : Word).extractLsb' 0 4 = 0x0#4) ∧
    ((0x00000005#32 : Word).extractLsb' 4 28 = 0#28 ∧ 5 ≤ ((0x00000005#32 : Word).extractLsb' 0 4).toNat) ∧
    ((0x0000000F#32 : Word).extractLsb' 4 28 = 0#28 ∧ 5 ≤ ((0x0000000F#32 : Word).extractLsb' 0 4).toNat) := by decide
theorem witness_BusErrorChangesNoRegister :
    (Width.w32 = .w32 ∧ (0x3C : Fin 64).val % 4 = 0) ∧
    Width.w64 ≠ .w32 ∧ (0x02 : Fin 64).val % 4 ≠ 0 ∧ 64 < (0x3D : Fin 64).val + Width.w32.bytes := by decide
theorem witness_NoOtherErrorEvent :
    ∃ s t e rest, s.inbox = e :: rest ∧ step s = .next t ∧ t.resp = some (.error 0x02) :=
  ⟨{ State.reset with inbox := [.access ⟨0x02, .w32, .read⟩] }, _, _, [], rfl, rfl, rfl⟩
/-- The platform's error answer to a CMD write that reset cut short. -/
theorem witness_NoOtherErrorEvent_cut :
    ∃ s t e rest, s.inbox = e :: rest ∧ step s = .next t ∧ t.resp = some (.error 0x04) :=
  ⟨{ State.reset with inbox := [.resetDuringCmd 1#32 (some (.error 0x04))] }, _, _, [], rfl, rfl, rfl⟩
theorem witness_NoOtherErrorEvent_err :
    ∃ s t e rest, s.inbox = e :: rest ∧ step s = .next t ∧ s.err = false ∧ t.err = true :=
  ⟨{ State.reset with inbox := [Event.write 0x04 0#32] }, _, _, [], rfl,
    by rw [step_write _ _ _ _ (by decide)]; rfl, rfl, rfl⟩
theorem witness_StepRunsDecodedCommand : decodeCmd 0x00000002#32 = .command .fenc := by decide
theorem witness_ReadsReturnRegistersWithoutEffect :
    (0x14 ≤ (0x14 : Fin 64).val ∧ (0x14 : Fin 64).val % 4 = 0) ∧
      (0x14 ≤ (0x3C : Fin 64).val ∧ (0x3C : Fin 64).val % 4 = 0) := by decide
theorem witness_ReservedStatusBitsReadZero :
    ((5 ≤ 5 ∧ 5 ≤ 7) ∨ (16 ≤ 5 ∧ 5 ≤ 31)) ∧ ((5 ≤ 31 ∧ 31 ≤ 7) ∨ (16 ≤ 31 ∧ 31 ≤ 31)) ∧
    (0xFFFFFFFE#32 : Word).getLsbD 0 = false ∧ (1#32 : Word).getLsbD 0 = (0xFFFFFFFF#32 : Word).getLsbD 0 := by decide
theorem witness_ReadOnlyAndReservedWritesIgnored :
    (0x0C ≤ (0x0C : Fin 64).val ∧ (0x0C : Fin 64).val % 4 = 0) ∧
      (0x0C ≤ (0x3C : Fin 64).val ∧ (0x3C : Fin 64).val % 4 = 0) := by decide
theorem witness_EveryAccessIsIdempotent : (Access.mk 0x3F .w8 .read).kind = .read := rfl
theorem witness_WindowIsSixtyFourBytesAtBase : ∃ addr, addr < Config.base ∨ Config.base + 0x3F < addr :=
  ⟨Config.base + 0x40, .inr (Nat.lt_succ_self _)⟩
theorem witness_ResetStateIsAllZero : State.reset.arg = 0#32 := rfl
theorem witness_WaitingChangesNothing : State.reset.inbox = [] := rfl
/-- The registers after FDEC of the largest result meet the invariant. -/
theorem witness_StepKeepsRegisterInvariant :
    ∃ s t, s.Inv ∧ s.lastop = 1#4 ∧ s.err = true ∧ step s = .next t :=
  ⟨{ afterIllegal with lastop := 1#4, res0 := 0x0017625A#32, res1 := 1#32, inbox := [.reset] }, _,
    ⟨⟨by decide, by decide⟩, ⟨by decide, by decide, by decide, by decide, by decide, by decide⟩⟩, rfl, rfl, rfl⟩
theorem witness_ResultsLastUntilNextCommand :
    ∃ s t, step s = .next t ∧ ∀ e rest, s.inbox = e :: rest → ¬ e.runsCommand ∧ ¬ e.resets :=
  ⟨State.reset, _, rfl, by intro e rest h; cases h⟩
/-- For LastopRecordsLastLegalCommand's clause on one step as well. -/
theorem witness_ResultsLastUntilNextCommand_access :
    ∃ s t, step s = .next t ∧ s.inbox ≠ [] ∧ ∀ e rest, s.inbox = e :: rest → ¬ e.runsCommand ∧ ¬ e.resets := by
  refine ⟨{ State.reset with inbox := [Event.read 0x08] }, _, rfl, List.cons_ne_nil _ _, ?_⟩
  intro e rest h
  cases h
  exact ⟨(by rintro ⟨i, h⟩; cases h), by rintro (h | ⟨d, a, h⟩) <;> cases h⟩
theorem witness_ArgChangesOnlyByHostWrite : ∃ s t, step s = .next t ∧ t.arg ≠ s.arg :=
  ⟨{ State.reset with inbox := [Event.write 0x00 1#32] }, _, rfl, by decide⟩
theorem witness_ResultsDependOnArgAlone : (withArg 3#32).arg = { afterIllegal with arg := 3#32 }.arg ∧
    withArg 3#32 ≠ { afterIllegal with arg := 3#32 } := by decide
/-- For ArgReadReturnsLastWrite as well. -/
theorem witness_CommandUsesLastArgWrite : ∀ e ∈ [Event.read 0x08], ¬ e.writesArg ∧ ¬ e.resets := by
  intro e he
  cases List.mem_singleton.mp he
  exact ⟨(by rintro ⟨v, h⟩; cases h), by rintro (h | ⟨d, a, h⟩) <;> cases h⟩
theorem witness_DecodeClosedForm :
    (0x014A7FFF / 2 ^ 14 % 2 ^ 11 ≤ 1321 ∧ 0x014A7FFF < 2 ^ 32) ∧
    (1322 ≤ 0x014A8000 / 2 ^ 14 % 2 ^ 11 ∧ 0x014A8000 < 2 ^ 32) ∧
    (0x014A7FFE % 2 ^ 25 < 0x014A7FFF % 2 ^ 25) := by decide
theorem witness_DecodeOutputRange : 0x014A61D2 < 2 ^ 32 ∧ 21651922 ≤ 0x014A61D2 % 2 ^ 25 ∧ 0xFFFFFFFF < 2 ^ 32 := by decide
/-- For EncodeIntermediateRanges as well. -/
theorem witness_EncodeClosedForm : 0xFFFFFFFF < 2 ^ 32 ∧ 99 ≤ 100 := by decide
theorem witness_EncodeOutputRange : 0xFFFFFFFF < 2 ^ 32 ∧ 0x014A61D1 ≤ 21651921 := by decide
theorem witness_CodeRoundTrip : (withArg 0x014A61D1#32).arg.toNat ≤ 21651921 ∧ 0x014A7FFF / 2 ^ 14 ≤ 1321 := by decide
theorem witness_FrequencyRoundTrip : 0xFFFFFFFF < 2 ^ 32 := by decide
theorem witness_CanonicalBytesAreThePackedOnes :
    15 < (halved 524288).1 ∧ (0x0F < 256 ∧ canonicalByte 0x0F = true) ∧ (0xFF < 256 ∧ canonicalByte 0xFF = true) ∧
    (0x10 < 256 ∧ canonicalByte 0x10 = false) ∧ (0xF7 < 256 ∧ canonicalByte 0xF7 = false) := by decide
theorem witness_RepresentableValueBounds : 1 ≤ (prePack 491520).2 ∧ 491520 ≤ 491520 ∧ 1 ≤ (prePack 16).2 := by decide
theorem witness_PackSaturates : 491520 ≤ 491520 ∧ 491520 < 491521 ∧ 524287 < 524288 ∧ 524288 ≤ 524288 := by decide
theorem witness_ClampedCountsPackAsUnbounded :
    2 ^ 19 ≤ 524288 ∧ (withArg 0xFFFFFFFF#32).arg = 0xFFFFFFFF#32 ∧ 2 ^ 32 ≤ 4294967296 ∧
      State.reset.arg.toNat = 2 ^ 32 % 2 ^ 32 := by decide

end Sys2Proof.Machine.Tests
end

/-! SUPPORT. The numbers that the commands write: the bounds of the two codecs, and the result registers and flags of each
command as natural numbers. -/

namespace Sys2Proof.Machine

theorem zext32_toNat {v : Nat} (h : v < 2 ^ 32) : (zext32 v).toNat = v := by
  rw [zext32, BitVec.toNat_ofNat, Nat.mod_eq_of_lt h]

/-! ## The frequency codec -/

/-- R25's threshold: the high part needs a 33rd bit exactly from `ch` 1322. -/
theorem wrapFlag_iff (a : Nat) : wrapFlag a = true ↔ 1322 ≤ a / 16384 % 2048 := by
  rw [wrapFlag, codeHigh_eq, decide_eq_true_iff]
  omega

/-- The largest low part of a decode (R104). -/
theorem freqLow_le (a : Nat) : freqLow a ≤ 3249802 := by
  rw [freqLow_eq]
  omega

/-- A wrapped high part has lost `2^32` (R105). -/
theorem freqHigh_le_of_wrapFlag {a : Nat} (h : wrapFlag a = true) : freqHigh a ≤ 2357782704 := by
  have hch : a / 16384 % 2048 < 2048 := Nat.mod_lt _ (by decide)
  rw [wrapFlag_iff] at h
  rw [freqHigh_eq]
  have hcarry : 4294967296 ≤ a / 16384 % 2048 * 203125 * 16 := by omega
  rw [Nat.mod_eq_sub_mod hcarry, Nat.mod_eq_of_lt (by omega)]
  omega

/-- A wrapped decode fits 32 bits (R105). -/
theorem freqDecode_lt_of_wrapFlag {a : Nat} (h : wrapFlag a = true) : freqDecode a < 2 ^ 32 := by
  have hlow := freqLow_le a
  have hhigh := freqHigh_le_of_wrapFlag h
  rw [freqDecode]
  omega

/-- R110: the largest code that FENC gives. -/
theorem freqEncode_le {f : Nat} (h : f < 2 ^ 32) : freqEncode f ≤ 21651921 := by
  rw [freqEncode_eq]
  omega

/-- RES1 of FDEC is bit 32 of the frequency (R111). -/
theorem fdecResult_r1_toNat (a : Nat) : (fdecResult a).r1.toNat = freqDecode a / 4294967296 % 2 := by
  have hbit : bits (freqDecode a) 32 32 = freqDecode a / 4294967296 % 2 := bits_eq _ 32 32
  simp only [fdecResult, hbit]
  exact zext32_toNat (by omega)

theorem fdecResult_r1_of_wrap {a : Nat} (h : (fdecResult a).w = true) : (fdecResult a).r1 = 0#32 := by
  have hv : freqDecode a < 4294967296 := freqDecode_lt_of_wrapFlag h
  rw [← BitVec.toNat_inj, fdecResult_r1_toNat, Nat.div_eq_of_lt hv]
  rfl

theorem fencResult_r0_toNat {f : Nat} (h : f < 2 ^ 32) : (fencResult f).r0.toNat = freqEncode f := by
  have := freqEncode_le h
  exact zext32_toNat (by omega)

theorem fdecResult_i_iff (a : Word) : (fdecResult a.toNat).i = true ↔ a.extractLsb' 25 7 ≠ 0#7 := by
  have hbits : codeIgnored a.toNat = (a.extractLsb' 25 7).toNat := rfl
  simp only [fdecResult, ignFlagFdec, decide_eq_true_iff, hbits, ne_eq, ← BitVec.toNat_inj]
  rfl

/-! ## The preamble codec -/

/-- The pair that is packed is canonical: exponent 0, or mantissa 8 to 15 (R147). -/
theorem prePack_canonical (p : Nat) : (prePack p).2 = 0 ∨ 8 ≤ (prePack p).1 := by
  obtain ⟨k, -, h, hlo, -⟩ := halved_spec p
  rw [prePack_eq, h]
  rcases k with _ | k
  · exact .inl rfl
  · have hlo : 15 < p / 2 ^ k := by simpa using hlo
    have hhalf : p / 2 ^ (k + 1) = p / 2 ^ k / 2 := by rw [Nat.pow_succ, Nat.div_div_eq_div_mul]
    simp only [hhalf]
    omega

/-- Saturation (R150). -/
theorem prePack_of_saturated {p : Nat} (h : 491520 ≤ p) : prePack p = (15, 15) := by
  obtain ⟨k, hk, hp, -, hhi⟩ := halved_spec p
  have hk15 : k = 15 := by
    by_contra hne
    have hpow : 2 ^ k ≤ 2 ^ 14 := Nat.pow_le_pow_right (by decide) (by omega)
    have hlt : p < 16 * 2 ^ k := (Nat.div_lt_iff_lt_mul (Nat.two_pow_pos k)).mp (by omega)
    omega
  subst hk15
  rw [prePack_eq, hp, Nat.min_eq_left (by omega)]

theorem preRep_le (p : Nat) : preRep p ≤ p := by
  obtain ⟨k, -, h, -, -⟩ := halved_spec p
  rw [preRep_eq, prePack_eq, h]
  calc min 15 (p / 2 ^ k) * 2 ^ k ≤ p / 2 ^ k * 2 ^ k := Nat.mul_le_mul_right _ (Nat.min_le_right _ _)
    _ ≤ p := Nat.div_mul_le_self p _

/-- The largest representable value is that of mantissa 15 and exponent 15 (R149). -/
theorem preRep_le_max (p : Nat) : preRep p ≤ 491520 := by
  obtain ⟨hm, he⟩ := prePack_le p
  rw [preRep_eq]
  exact Nat.mul_le_mul hm (Nat.pow_le_pow_right (by decide) he : _ ≤ 2 ^ 15)

theorem preByte_eq (p : Nat) : preByte p = 16 * (prePack p).2 + (prePack p).1 :=
  packByte_eq (Nat.lt_succ_of_le (prePack_le p).1)

theorem preByte_lt (p : Nat) : preByte p < 256 := by
  have := prePack_le p
  rw [preByte_eq]
  omega

theorem byteMantissa_preByte (p : Nat) : byteMantissa (preByte p) = (prePack p).1 := by
  have := prePack_le p
  rw [byteMantissa_eq, preByte_eq]
  omega

theorem byteExponent_preByte (p : Nat) : byteExponent (preByte p) = (prePack p).2 := by
  have := prePack_le p
  rw [byteExponent_eq, preByte_eq]
  omega

theorem preValue_preByte (p : Nat) : preValue (preByte p) = preRep p := by
  rw [preValue, byteMantissa_preByte, byteExponent_preByte, preRep]

theorem canonicalByte_preByte (p : Nat) : canonicalByte (preByte p) = true := by
  rw [canonicalByte, byteMantissa_preByte, byteExponent_preByte]
  simpa using prePack_canonical p

/-- A packed byte stands for at most 491,520, whatever its bits. -/
theorem preValue_le_max (b : Nat) : preValue b ≤ 491520 := by
  have he : 2 ^ (b / 16 % 16) ≤ 2 ^ 15 := Nat.pow_le_pow_right (by decide) (by omega)
  rw [preValue_eq]
  exact Nat.mul_le_mul (by omega : b % 16 ≤ 15) he

@[simp] theorem ppackResult_r0_toNat (a : Nat) : (ppackResult a).r0.toNat = preRep a := by
  have := preRep_le_max a
  exact zext32_toNat (by omega)

@[simp] theorem ppackResult_r1_toNat (a : Nat) : (ppackResult a).r1.toNat = preByte a := by
  have := preByte_lt a
  exact zext32_toNat (by omega)

/-- R27. -/
theorem ppackResult_q_iff (a : Nat) : (ppackResult a).q = true ↔ preRep a < a := by
  have := preRep_le a
  rw [ppackResult, inexactFlag, decide_eq_true_iff]
  omega

/-- R28. -/
theorem ppackResult_s_iff (a : Nat) : (ppackResult a).s = true ↔ 491520 < a := by
  rw [ppackResult, satFlag, decide_eq_true_iff, gt_iff_lt]

/-- A saturated count is not representable (R28). -/
theorem ppackResult_q_of_s {a : Nat} (h : (ppackResult a).s = true) : (ppackResult a).q = true := by
  rw [ppackResult_s_iff] at h
  exact (ppackResult_q_iff a).mpr (Nat.lt_of_le_of_lt (preRep_le_max a) h)

/-- A saturated count packs to the largest byte (R150). -/
theorem ppackResult_r1_of_s {a : Nat} (h : (ppackResult a).s = true) : (ppackResult a).r1 = 0xFF#32 := by
  rw [ppackResult_s_iff] at h
  rw [← BitVec.toNat_inj, ppackResult_r1_toNat, preByte_eq, prePack_of_saturated h.le]
  rfl

@[simp] theorem punpackResult_r1_toNat (a : Nat) : (punpackResult a).r1.toNat = a % 256 := by
  rw [punpackResult, packedOperand_eq, zext32_toNat (by omega)]

@[simp] theorem punpackResult_r0_toNat (a : Nat) : (punpackResult a).r0.toNat = preValue (a % 256) := by
  have := preValue_le_max (a % 256)
  rw [punpackResult, packedOperand_eq, zext32_toNat (by omega)]

theorem punpackResult_i_iff (a : Word) : (punpackResult a.toNat).i = true ↔ a.extractLsb' 8 24 ≠ 0#24 := by
  have hbits : packedIgnored a.toNat = (a.extractLsb' 8 24).toNat := rfl
  simp only [punpackResult, ignFlagPunpack, decide_eq_true_iff, hbits, ne_eq, ← BitVec.toNat_inj]
  rfl

end Sys2Proof.Machine

/-! SUPPORT. Opcodes, command words and events. -/

namespace Sys2Proof.Machine

theorem opcode_injective : Function.Injective Instr.opcode := by
  intro i j
  cases i <;> cases j <;> decide

theorem opcode_ne_zero (i : Instr) : i.opcode ≠ 0#4 := by cases i <;> decide

theorem opcode_le_four (i : Instr) : i.opcode.toNat ≤ 4 := by cases i <;> decide

theorem code_eq_one_or_two (c : Cause) : c.code = 1#4 ∨ c.code = 2#4 := by cases c <;> decide

@[simp] theorem decodeCmd_encode (i : Instr) : decodeCmd (encode i) = .command i := by cases i <;> decide

/-- With clear reserved bits a command word is its opcode (R81). -/
theorem toNat_eq_cmdOpc {d : Word} (h : cmdRsv d = 0#28) : d.toNat = (cmdOpc d).toNat := by
  have hrsv : d.toNat / 16 % 268435456 = 0 := by
    simpa [cmdRsv, ← BitVec.toNat_inj, Nat.shiftRight_eq_div_pow] using h
  have hopc : (cmdOpc d).toNat = d.toNat % 16 := by simp [cmdOpc]
  have hlt : d.toNat < 4294967296 := d.isLt
  omega

/-- What the decoder's tests say of a word that it takes (R86). -/
theorem fields_of_decodeCmd {d : Word} {i : Instr} (h : decodeCmd d = .command i) :
    cmdRsv d = 0#28 ∧ cmdOpc d = i.opcode := by
  unfold decodeCmd at h
  split_ifs at h with hrsv h1 h2 h3 h4 <;> cases h
  exacts [⟨not_not.mp hrsv, h1⟩, ⟨not_not.mp hrsv, h2⟩, ⟨not_not.mp hrsv, h3⟩, ⟨not_not.mp hrsv, h4⟩]

theorem encode_toNat (i : Instr) : (encode i).toNat = i.opcode.toNat := by cases i <;> rfl

/-- The only word that decodes to a command is the command's own (R85). -/
theorem eq_encode_of_decodeCmd {d : Word} {i : Instr} (h : decodeCmd d = .command i) : d = encode i := by
  obtain ⟨hrsv, hopc⟩ := fields_of_decodeCmd h
  rw [← BitVec.toNat_inj, toNat_eq_cmdOpc hrsv, hopc, encode_toNat]

end Sys2Proof.Machine

/-! SUPPORT. What one step does: the equations of the writes to CMD, ARG and STATUS, and the inversions of a step by
what it may change: the port, ARG, the error fields, the result fields. -/

namespace Sys2Proof.Machine

/-- A 32-bit write at a word offset is admitted (R54). -/
theorem serveEvent_write {off : Fin 64} (d : Word) (s : State) (h : off.val % 4 = 0) :
    serveEvent (Event.write off d) s = hostWrite off d s := by
  rw [Event.write, serveEvent, serveAccess, write_admitted]
  simp [h]

/-- R181: an illegal command is recorded, and nothing else changes. -/
theorem step_illegal (s : State) {d : Word} {c : Cause} (rest : List Event) (hd : decodeCmd d = .illegal c) :
    step { s with inbox := Event.write 0x04 d :: rest } =
      .next { s with inbox := rest, resp := some .done, err := true, errcause := c.code } := by
  rw [step_write _ _ _ _ (by decide)]
  show runCmd d { s with inbox := rest } = _
  rw [runCmd, hd]
  rfl

theorem step_write_arg (s : State) (v : Word) (rest : List Event) :
    step { s with inbox := Event.write 0x00 v :: rest } = .next { s with inbox := rest, resp := some .done, arg := v } :=
  step_write _ _ _ _ (by decide)

theorem step_write_status (s : State) (d : Word) (rest : List Event) :
    step { s with inbox := Event.write 0x08 d :: rest } =
      .next (State.writeStatus { s with inbox := rest, resp := some .done } d) :=
  step_write _ _ _ _ (by decide)

theorem writeStatus_of_set {d : Word} (s : State) (h : d.getLsbD 0 = true) :
    s.writeStatus d = { s with err := false, errcause := 0#4 } := by
  rw [State.writeStatus, if_pos h]

theorem writeStatus_of_clear {d : Word} (s : State) (h : d.getLsbD 0 = false) : s.writeStatus d = s := by
  rw [State.writeStatus, if_neg (h ▸ Bool.false_ne_true)]

/-- A step that serves a legal command (R93). -/
theorem step_command {s : State} {i : Instr} {rest : List Event} (hi : s.inbox = Event.write 0x04 (encode i) :: rest) :
    step s = exec i ((s.accept rest).respond .done) := by
  rw [step_cons s _ rest hi, serveEvent_write _ _ (by decide)]
  show runCmd (encode i) (s.accept rest) = _
  rw [runCmd, decodeCmd_encode]

/-- A step that serves a reset, of either kind (R210, R211). -/
theorem step_resets {s : State} {e : Event} {rest : List Event} (hi : s.inbox = e :: rest) (he : e.resets) :
    ∃ answer, step s = .next ((s.accept rest).resetBlock answer) := by
  rw [step_cons s e rest hi]
  rcases he with rfl | ⟨d, answer, rfl⟩
  · exact ⟨none, rfl⟩
  · exact ⟨answer, rfl⟩

/-- `step_spec` read backwards: how a next state came about. -/
theorem step_cases {s t : State} (h : step s = .next t) :
    (s.inbox = [] ∧ t = s) ∨
    (∃ a rest, s.inbox = .access a :: rest ∧ AccessEffect a (s.accept rest) t) ∨
    (∃ e rest answer, s.inbox = e :: rest ∧ e.resets ∧ t = (s.accept rest).resetBlock answer) := by
  rcases step_spec s with ⟨hi, hs⟩ | ⟨a, rest, u, hi, hs, hu⟩ | ⟨rest, hi, hs⟩ | ⟨d, answer, rest, hi, hs⟩ <;>
    rw [hs] at h <;> cases h
  · exact .inl ⟨hi, rfl⟩
  · exact .inr (.inl ⟨a, rest, hi, hu⟩)
  · exact .inr (.inr ⟨_, rest, none, hi, .inl rfl, rfl⟩)
  · exact .inr (.inr ⟨_, rest, answer, hi, .inr ⟨d, answer, rfl⟩, rfl⟩)

theorem exists_step (s : State) : ∃ t, step s = .next t := by
  rcases step_spec s with ⟨-, hs⟩ | ⟨_, _, u, -, hs, -⟩ | ⟨_, -, hs⟩ | ⟨_, _, _, -, hs⟩
  all_goals exact ⟨_, hs⟩

/-- A step takes the event at the head of the inbox (R62). -/
theorem step_inbox {s t : State} (h : step s = .next t) : t.inbox = s.inbox.tail := by
  rcases step_cases h with ⟨hi, rfl⟩ | ⟨a, rest, hi, hu⟩ | ⟨e, rest, answer, hi, -, rfl⟩
  · simp [hi]
  · cases hu <;> simp [hi]
  · simp [hi]

/-- R21: what a step does to ARG. -/
theorem step_arg {s t : State} (h : step s = .next t) :
    t.arg = s.arg ∨ ∃ e rest, s.inbox = e :: rest ∧ (e.writesArg ∨ e.resets) := by
  rcases step_cases h with ⟨-, rfl⟩ | ⟨a, rest, hi, hu⟩ | ⟨e, rest, answer, hi, he, -⟩
  · exact .inl rfl
  · cases hu with
    | arg v ha => exact .inr ⟨_, rest, hi, .inl ⟨v, by rw [ha]; rfl⟩⟩
    | error | read | ignored | status | illegal | command => exact .inl (by simp)
  · exact .inr ⟨e, rest, hi, .inr he⟩

/-- R24, R30: what a step does to ERR and ERRCAUSE. -/
theorem step_error {s t : State} (h : step s = .next t) :
    (t.err = s.err ∧ t.errcause = s.errcause) ∨
    (∃ c : Cause, t.err = true ∧ t.errcause = c.code) ∨
    (t.err = false ∧ t.errcause = 0#4 ∧ ∃ e rest, s.inbox = e :: rest ∧ (e.clearsError ∨ e.resets)) := by
  rcases step_cases h with ⟨-, rfl⟩ | ⟨a, rest, hi, hu⟩ | ⟨e, rest, answer, hi, he, rfl⟩
  · exact .inl ⟨rfl, rfl⟩
  · cases hu with
    | illegal d c => exact .inr (.inl ⟨c, rfl, rfl⟩)
    | status d ha =>
      cases hd : d.getLsbD 0 with
      | false =>
        rw [writeStatus_of_clear _ hd]
        exact .inl ⟨rfl, rfl⟩
      | true =>
        rw [writeStatus_of_set _ hd]
        exact .inr (.inr ⟨rfl, rfl, _, rest, hi, .inl ⟨d, hd, by rw [ha]; rfl⟩⟩)
    | error | read | ignored | arg | command => exact .inl ⟨rfl, rfl⟩
  · exact .inr (.inr ⟨rfl, rfl, e, rest, hi, .inr he⟩)

/-- `t` holds what `s` does in RES0, RES1 and the fields of STATUS that a legal command writes (R39). -/
def State.SameResults (s t : State) : Prop :=
  t.res0 = s.res0 ∧ t.res1 = s.res1 ∧ t.wrap = s.wrap ∧ t.ign = s.ign ∧ t.inexact = s.inexact ∧ t.sat = s.sat ∧
    t.lastop = s.lastop

/-- R217: what a step does to the results: it leaves them, or it serves a legal command, or a reset. -/
theorem step_results {s t : State} (h : step s = .next t) :
    s.SameResults t ∨
    (∃ i rest, s.inbox = Event.write 0x04 (encode i) :: rest ∧
      t = ((s.accept rest).respond .done).complete i.opcode (cmdResult i s.arg.toNat)) ∨
    (∃ e rest answer, s.inbox = e :: rest ∧ e.resets ∧ t = (s.accept rest).resetBlock answer) := by
  rcases step_cases h with ⟨-, rfl⟩ | ⟨a, rest, hi, hu⟩ | hreset
  · exact .inl ⟨rfl, rfl, rfl, rfl, rfl, rfl, rfl⟩
  · cases hu with
    | command d i hd ha =>
      rw [ha, eq_encode_of_decodeCmd hd] at hi
      exact .inr (.inl ⟨i, rest, hi, rfl⟩)
    | error | read | ignored | arg | status | illegal => exact .inl (by simp [State.SameResults])
  · exact .inr (.inr hreset)

/-- The results outlast every event that is no legal command and no reset (R217). -/
theorem step_sameResults {s t : State} (h : step s = .next t)
    (hev : ∀ e rest, s.inbox = e :: rest → ¬ e.runsCommand ∧ ¬ e.resets) : s.SameResults t := by
  rcases step_results h with hsame | ⟨i, rest, hi, -⟩ | ⟨e, rest, answer, hi, he, -⟩
  · exact hsame
  · exact absurd ⟨i, rfl⟩ (hev _ rest hi).1
  · exact absurd he (hev e rest hi).2

end Sys2Proof.Machine

/-! SUPPORT. The register invariant `State.Inv`: reset meets it and every step keeps it. -/

namespace Sys2Proof.Machine

theorem State.ResultsOk.of_sameResults {s t : State} (hs : s.ResultsOk) (h : s.SameResults t) : t.ResultsOk := by
  obtain ⟨h0, h1, hw, hi, hq, hsat, hl⟩ := h
  constructor <;> simp only [h0, h1, hw, hi, hq, hsat, hl]
  exacts [hs.lastop, hs.fresh, hs.fdec, hs.fenc, hs.ppack, hs.punpack]

/-- The clause of `ResultsOk` that counts after a legal command is the one its opcode selects. -/
theorem resultsOk_complete (s : State) (i : Instr) (a : Word) :
    (s.complete i.opcode (cmdResult i a.toNat)).ResultsOk where
  lastop := opcode_le_four i
  fresh h := absurd h (opcode_ne_zero i)
  fdec h := by
    obtain rfl : i = .fdec := opcode_injective h
    refine ⟨?_, fdecResult_r1_of_wrap, rfl, rfl⟩
    calc (fdecResult a.toNat).r1.toNat = freqDecode a.toNat / 4294967296 % 2 := fdecResult_r1_toNat _
      _ ≤ 1 := by omega
  fenc h := by
    obtain rfl : i = .fenc := opcode_injective h
    refine ⟨?_, rfl, rfl, rfl, rfl, rfl⟩
    calc (fencResult a.toNat).r0.toNat = freqEncode a.toNat := fencResult_r0_toNat a.isLt
      _ ≤ 21651921 := freqEncode_le a.isLt
  ppack h := by
    obtain rfl : i = .ppack := opcode_injective h
    rw [State.complete_res0, State.complete_res1, cmdResult, ppackResult_r0_toNat, ppackResult_r1_toNat]
    exact ⟨preByte_lt _, canonicalByte_preByte _, (preValue_preByte _).symm, rfl, rfl,
      fun hsat => ⟨ppackResult_q_of_s hsat, ppackResult_r1_of_s hsat⟩⟩
  punpack h := by
    obtain rfl : i = .punpack := opcode_injective h
    rw [State.complete_res0, State.complete_res1, cmdResult, punpackResult_r0_toNat, punpackResult_r1_toNat]
    exact ⟨Nat.mod_lt _ (by decide), rfl, rfl, rfl, rfl⟩

theorem resultsOk_resetBlock (s : State) (answer : Option Response) : (s.resetBlock answer).ResultsOk := by
  constructor <;> simp

theorem errorOk_resetBlock (s : State) (answer : Option Response) : (s.resetBlock answer).ErrorOk := by
  constructor <;> simp

theorem inv_resetBlock (s : State) (answer : Option Response) : (s.resetBlock answer).Inv :=
  ⟨errorOk_resetBlock s answer, resultsOk_resetBlock s answer⟩

theorem step_keeps_resultsOk {s t : State} (hs : s.ResultsOk) (h : step s = .next t) : t.ResultsOk := by
  rcases step_results h with hsame | ⟨i, rest, -, rfl⟩ | ⟨e, rest, answer, -, -, rfl⟩
  · exact hs.of_sameResults hsame
  · exact resultsOk_complete _ i s.arg
  · exact resultsOk_resetBlock _ answer

theorem step_keeps_errorOk {s t : State} (hs : s.ErrorOk) (h : step s = .next t) : t.ErrorOk := by
  rcases step_error h with ⟨he, hc⟩ | ⟨c, he, hc⟩ | ⟨he, hc, -⟩
  · exact ⟨by rw [he, hc]; exact hs.none, by rw [he, hc]; exact hs.some⟩
  · exact ⟨by simp [he], fun _ => hc ▸ code_eq_one_or_two c⟩
  · exact ⟨fun _ => hc, by simp [he]⟩

theorem step_keeps_inv {s t : State} (hs : s.Inv) (h : step s = .next t) : t.Inv :=
  ⟨step_keeps_errorOk hs.error h, step_keeps_resultsOk hs.results h⟩

/-- ERRCAUSE is 0 exactly while ERR is 0, and never above 2 (R30). -/
theorem State.ErrorOk.errcause {s : State} (h : s.ErrorOk) :
    s.errcause.toNat ≤ 2 ∧ (s.errcause = 0#4 ↔ s.err = false) := by
  cases he : s.err with
  | false => simp [h.none he]
  | true => rcases h.some he with hc | hc <;> simp [hc]

/-- Reset with any inbox is the block's reset (R210) of any state with that inbox. -/
theorem inv_reset (evs : List Event) : State.Inv { State.reset with inbox := evs } :=
  inv_resetBlock { State.reset with inbox := evs } none

end Sys2Proof.Machine

/-! SUPPORT. Runs of several steps: a run answers a next state, keeps what every step keeps, and serves the first events of
the inbox; and what LASTOP records of the events served. -/

namespace Sys2Proof.Machine

theorem runSteps_succ {s t : State} (h : step s = .next t) (n : Nat) : runSteps (n + 1) s = runSteps n t := by
  rw [runSteps, h]

/-- What every step keeps holds after every run, and a run serves the first `n` events (R62). -/
theorem runSteps_keeps {P : State → Prop} (hstep : ∀ s t, P s → step s = .next t → P t) (n : Nat) (s : State) (hs : P s) :
    ∃ t, runSteps n s = .next t ∧ P t ∧ t.inbox = s.inbox.drop n := by
  induction n generalizing s with
  | zero => exact ⟨s, rfl, hs, rfl⟩
  | succ n ih =>
    obtain ⟨u, hu⟩ := exists_step s
    obtain ⟨t, ht, hP, hi⟩ := ih u (hstep s u hs hu)
    refine ⟨t, (runSteps_succ hu n).trans ht, hP, ?_⟩
    rw [hi, step_inbox hu, List.drop_tail]

/-- Every run from reset meets the register invariant. -/
theorem run_from_reset_inv (n : Nat) (evs : List Event) :
    ∃ t, runSteps n { State.reset with inbox := evs } = .next t ∧ t.Inv ∧ t.inbox = evs.drop n :=
  runSteps_keeps (fun _ _ => step_keeps_inv) n _ (inv_reset evs)

/-- Every legal command among the events is followed by a reset: none has run since the last one (R29). -/
def CommandsReset (evs : List Event) : Prop :=
  ∀ pre e post, evs = pre ++ e :: post → e.runsCommand → ∃ r ∈ post, r.resets

theorem commandsReset_nil : CommandsReset [] := by
  intro pre e post h
  simp at h

theorem commandsReset_cons (e : Event) (evs : List Event) :
    CommandsReset (e :: evs) ↔ (e.runsCommand → ∃ r ∈ evs, r.resets) ∧ CommandsReset evs := by
  constructor
  · intro h
    exact ⟨h [] e evs rfl, fun pre e' post hsplit => h (e :: pre) e' post (by rw [hsplit]; rfl)⟩
  · rintro ⟨hhead, htail⟩ pre e' post hsplit
    rcases pre with _ | ⟨p, pre⟩ <;> cases hsplit
    · exact hhead
    · exact htail pre e' post rfl

/-- What one event does to LASTOP being 0: a legal command ends it, a reset restores it, all else keeps it (R29). -/
theorem step_lastop_eq_zero_iff {s t : State} {e : Event} {rest : List Event} (h : step s = .next t)
    (hi : s.inbox = e :: rest) : t.lastop = 0#4 ↔ (s.lastop = 0#4 ∨ e.resets) ∧ ¬ e.runsCommand := by
  by_cases hcmd : e.runsCommand
  · obtain ⟨i, rfl⟩ := hcmd
    rw [step_command hi, exec_eq] at h
    cases h
    exact iff_of_false (opcode_ne_zero i) fun hr => hr.2 ⟨i, rfl⟩
  · by_cases hreset : e.resets
    · obtain ⟨answer, hs⟩ := step_resets hi hreset
      rw [hs] at h
      cases h
      exact iff_of_true rfl ⟨.inr hreset, hcmd⟩
    · have hsame : s.SameResults t := step_sameResults h fun e' rest' hi' => by
        cases hi.symm.trans hi'
        exact ⟨hcmd, hreset⟩
      obtain ⟨-, -, -, -, -, -, hlast⟩ := hsame
      simp [hlast, hcmd, hreset]

/-- R29 along a run: LASTOP is 0 exactly when it was, or a reset was served, and no legal command has run since. -/
theorem runSteps_lastop_eq_zero_iff {n : Nat} {s t : State} (h : runSteps n s = .next t) :
    t.lastop = 0#4 ↔
      (s.lastop = 0#4 ∨ ∃ r ∈ s.inbox.take n, r.resets) ∧ CommandsReset (s.inbox.take n) := by
  induction n generalizing s with
  | zero =>
    cases h
    simp [commandsReset_nil]
  | succ n ih =>
    obtain ⟨u, hu⟩ := exists_step s
    rw [runSteps_succ hu] at h
    have htail := step_inbox hu
    cases hi : s.inbox with
    | nil =>
      rw [step_nil s hi] at hu
      cases hu
      simpa [hi] using ih h
    | cons e rest =>
      have hlast := step_lastop_eq_zero_iff hu hi
      rw [ih h, htail, hi, List.tail_cons, List.take_succ_cons, commandsReset_cons, hlast, List.exists_mem_cons_iff]
      tauto

end Sys2Proof.Machine

/-! SUPPORT. The STATUS word (R23) as a number. -/

namespace Sys2Proof.Machine

/-- Fields side by side, as a sum. -/
theorem toNat_append_eq_add {m n : Nat} (x : BitVec m) (y : BitVec n) :
    (x ++ y).toNat = x.toNat * 2 ^ n + y.toNat := by
  rw [BitVec.toNat_append, ← Nat.shiftLeft_add_eq_or_of_lt y.isLt, Nat.shiftLeft_eq]

theorem statusWord_toNat (s : State) : s.statusWord.toNat =
    s.err.toNat + 2 * s.wrap.toNat + 4 * s.ign.toNat + 8 * s.inexact.toNat + 16 * s.sat.toNat +
      256 * s.lastop.toNat + 4096 * s.errcause.toNat := by
  simp only [State.statusWord, toNat_append_eq_add, BitVec.toNat_ofBool, BitVec.toNat_ofNat]
  omega

/-- The reserved bits of STATUS (R31): its two groups of fields leave 31..16 and 7..5 at 0. -/
theorem statusWord_reserved (s : State) {i : Nat} (h : (5 ≤ i ∧ i ≤ 7) ∨ (16 ≤ i ∧ i ≤ 31)) :
    s.statusWord.getLsbD i = false := by
  rcases h with h | h
  · simp (disch := omega) only [State.statusWord, BitVec.getLsbD_append, if_neg, if_pos, BitVec.getLsbD_zero]
  · simp (disch := omega) only [State.statusWord, BitVec.getLsbD_append, if_neg, BitVec.getLsbD_zero]

end Sys2Proof.Machine

/-! SUPPORT. The obligations about the state and what changes it (spec/10_state.md). -/

namespace Sys2Proof.Machine

/-- Settles O36: `step_keeps_inv`, from what a step may do to the error fields and to the results. -/
theorem stepKeepsRegisterInvariant : Obligations.StepKeepsRegisterInvariant :=
  fun _ _ => step_keeps_inv

/-- Settles O37. -/
theorem resetMeetsRegisterInvariant : Obligations.ResetMeetsRegisterInvariant :=
  inv_reset

/-- Settles O38: the register invariant along the run. -/
theorem runsFromResetKeepErrcauseLegal : Obligations.RunsFromResetKeepErrcauseLegal := by
  intro n evs
  obtain ⟨t, ht, hinv, hi⟩ := run_from_reset_inv n evs
  obtain ⟨hle, hzero⟩ := hinv.error.errcause
  exact ⟨t, ht, hle, hzero, hi⟩

/-- Settles O9: a command is the shared update `State.complete` with the constants of its result, and the three writes
have their equations. -/
theorem writesPerCommand : Obligations.WritesPerCommand := by
  intro s
  refine ⟨⟨_, exec_eq .fdec s, rfl⟩, ⟨_, exec_eq .fenc s, rfl⟩, ⟨_, exec_eq .ppack s, rfl⟩, ⟨_, exec_eq .punpack s, rfl⟩,
    fun d c rest hd => step_illegal s rest hd, fun v rest => step_write_arg s v rest, fun d rest hd => ?_⟩
  rw [step_write_status, writeStatus_of_set _ hd]

/-- Settles O10: the threshold of `wrapFlag_iff`, and that `1322 * 3250000` is the first such multiple of 2^32 or more. -/
theorem wrapFlagByCommand : Obligations.WrapFlagByCommand := by
  intro s
  have hwrap := wrapFlag_iff s.arg.toNat
  refine ⟨⟨_, exec_eq .fdec s, hwrap.trans (by omega), hwrap⟩, ?_⟩
  rintro i (rfl | rfl | rfl)
  all_goals exact ⟨_, exec_eq _ s, rfl⟩

/-- Settles O11: the ignored bits as a number are the slice of ARG. -/
theorem ignFlagByCommand : Obligations.IgnFlagByCommand := by
  intro s
  refine ⟨⟨_, exec_eq .fdec s, fdecResult_i_iff s.arg⟩, ⟨_, exec_eq .punpack s, punpackResult_i_iff s.arg⟩, ?_⟩
  rintro i (rfl | rfl)
  all_goals exact ⟨_, exec_eq _ s, rfl⟩

/-- Settles O12: the representable value never exceeds the count, so to differ is to be less. -/
theorem inexactFlagByCommand : Obligations.InexactFlagByCommand := by
  intro s
  have hres0 : (ppackResult s.arg.toNat).r0.toNat = preRep s.arg.toNat := ppackResult_r0_toNat _
  have hle : (ppackResult s.arg.toNat).r0.toNat ≤ s.arg.toNat := hres0 ▸ preRep_le _
  have hless : (ppackResult s.arg.toNat).q = true ↔ (ppackResult s.arg.toNat).r0.toNat < s.arg.toNat :=
    hres0 ▸ ppackResult_q_iff _
  have hdiffers : (ppackResult s.arg.toNat).r0 ≠ s.arg ↔ (ppackResult s.arg.toNat).r0.toNat < s.arg.toNat := by
    rw [ne_eq, ← BitVec.toNat_inj]
    omega
  refine ⟨⟨_, exec_eq .ppack s, hle, hless.trans hdiffers.symm, hless⟩, ?_⟩
  rintro i (rfl | rfl | rfl)
  all_goals exact ⟨_, exec_eq _ s, rfl⟩

/-- Settles O13: a count above 491,520 exceeds every representable value. -/
theorem satFlagByCommand : Obligations.SatFlagByCommand := by
  intro s
  refine ⟨⟨_, exec_eq .ppack s, ppackResult_s_iff _, ppackResult_q_of_s⟩, ?_⟩
  rintro i (rfl | rfl | rfl)
  all_goals exact ⟨_, exec_eq _ s, rfl⟩

/-- Settles O14: the run clause is `runSteps_lastop_eq_zero_iff` from reset, with the invariant's clause for LASTOP 0. -/
theorem lastopRecordsLastLegalCommand : Obligations.LastopRecordsLastLegalCommand := by
  refine ⟨fun s => ⟨⟨_, exec_eq .fdec s, rfl⟩, ⟨_, exec_eq .fenc s, rfl⟩, ⟨_, exec_eq .ppack s, rfl⟩,
    ⟨_, exec_eq .punpack s, rfl⟩⟩, fun s d c rest hd => ⟨_, step_illegal s rest hd, rfl⟩, ⟨rfl, rfl, rfl⟩, ?_, ?_⟩
  · intro s t h hev
    obtain ⟨-, -, -, -, -, -, hlast⟩ := step_sameResults h hev
    exact hlast
  · intro n evs
    obtain ⟨t, ht, hinv, -⟩ := run_from_reset_inv n evs
    have hzero := runSteps_lastop_eq_zero_iff ht
    refine ⟨t, ht, hzero.trans (and_iff_right (.inl rfl)), fun hlast => ?_⟩
    obtain ⟨hres0, hres1, -⟩ := hinv.results.fresh hlast
    exact ⟨hres0, hres1⟩

/-- Settles O15: `step_error` names what can clear ERR, and `State.complete` neither reads nor writes it. -/
theorem errIsStickyAndNoStop : Obligations.ErrIsStickyAndNoStop := by
  refine ⟨fun s d c rest hd => ⟨_, step_illegal s rest hd, rfl⟩, ?_, ?_, ?_⟩
  · intro s t h hs ht
    rcases step_error h with ⟨he, -⟩ | ⟨c, he, -⟩ | ⟨-, -, hev⟩
    · simp [he, hs] at ht
    · simp [he] at ht
    · exact hev
  · rintro s e rest (⟨d, hd, rfl⟩ | hreset)
    · exact ⟨_, by rw [step_write_status, writeStatus_of_set _ hd], rfl⟩
    · obtain ⟨answer, hs⟩ := step_resets (s := { s with inbox := e :: rest }) rfl hreset
      exact ⟨_, hs, rfl⟩
  · intro s i c
    exact ⟨_, exec_eq i s, rfl, exec_eq i _⟩

/-- Settles O16: `step_error` again, with the two cause codes. -/
theorem errcauseHoldsNewestCause : Obligations.ErrcauseHoldsNewestCause := by
  refine ⟨fun s d rest hd => ⟨_, step_illegal s rest hd, rfl⟩, fun s d rest hd => ⟨_, step_illegal s rest hd, rfl⟩, ?_,
    fun s i => ⟨_, exec_eq i s, rfl⟩, ?_⟩
  · intro s t h hs ht
    rcases step_error h with ⟨he, -⟩ | ⟨c, he, -⟩ | ⟨-, hcause, -⟩
    · simp [he, hs] at ht
    · simp [he] at ht
    · exact hcause
  · intro s t h
    rcases step_error h with ⟨-, hcause⟩ | ⟨c, -, hcause⟩ | ⟨-, hcause, -⟩
    · exact .inl hcause
    · right
      rcases code_eq_one_or_two c with hc | hc <;> simp [hcause, hc]
    · exact .inr (by simp [hcause])

/-- Settles O24. -/
theorem statusWordHoldsItsFields : Obligations.StatusWordHoldsItsFields :=
  statusWord_toNat

/-- Settles O25. -/
theorem reservedStatusBitsReadZero : Obligations.ReservedStatusBitsReadZero := by
  intro s
  refine ⟨fun i hi => statusWord_reserved s hi, fun d rest => ?_, fun d d' rest hdd => ?_⟩
  · refine ⟨_, step_write_status s d rest, ?_⟩
    cases hd : d.getLsbD 0 with
    | true =>
      rw [writeStatus_of_set _ hd]
      exact ⟨rfl, nofun⟩
    | false =>
      rw [writeStatus_of_clear _ hd]
      exact ⟨rfl, fun _ => ⟨rfl, rfl⟩⟩
  · rw [step_write_status, step_write_status, State.writeStatus, hdd, State.writeStatus]

/-- Settles O32. -/
theorem resetStateIsAllZero : Obligations.ResetStateIsAllZero := by
  refine ⟨rfl, rfl, rfl, rfl, rfl, rfl, rfl, rfl, rfl, rfl, rfl, rfl, fun s harg => ?_⟩
  have hzero : (fdecResult 0).r0 = 0#32 ∧ (fdecResult 0).r1 = 0#32 := by decide
  refine ⟨_, exec_eq .fdec s, ?_⟩
  rw [harg]
  exact hzero

/-- Settles O40: `State.complete` leaves ARG, and `step_arg`. -/
theorem argChangesOnlyByHostWrite : Obligations.ArgChangesOnlyByHostWrite :=
  ⟨fun i s => ⟨_, exec_eq i s, rfl⟩, fun _ _ h hne => (step_arg h).resolve_left hne⟩

/-- Settles O41: `exec_eq` takes nothing but ARG into the result. -/
theorem resultsDependOnArgAlone : Obligations.ResultsDependOnArgAlone := by
  intro i s u harg
  refine ⟨_, _, exec_eq i s, exec_eq i u, ?_⟩
  rw [harg]
  exact ⟨rfl, rfl, rfl, rfl, rfl, rfl, rfl⟩

end Sys2Proof.Machine

/-! SUPPORT. The accesses of the register window: when an access is admitted, what the window holds, and `AccessEffect` as
the graph of `serveAccess`, from which follow a step's independence of the port and the idempotence of R61. -/

namespace Sys2Proof.Machine

/-- R54's condition, negated: R184's three reasons for an error response. -/
theorem admitted_eq_false_iff (a : Access) :
    a.admitted = false ↔ a.width ≠ .w32 ∨ a.off.val % 4 ≠ 0 ∨ 64 < a.off.val + a.width.bytes := by
  rw [← Bool.not_eq_true, Access.admitted]
  simp only [Bool.and_eq_true, decide_eq_true_eq, not_and_or, not_le, or_assoc, ne_eq]

/-- A 32-bit access at a word offset cannot cross the window's end (R54). -/
theorem admitted_of_word {a : Access} (hw : a.width = .w32) (hoff : a.off.val % 4 = 0) : a.admitted = true := by
  have hlt := a.off.isLt
  have hend : ¬ 64 < a.off.val + a.width.bytes := by
    rw [hw, Width.bytes]
    omega
  rw [← Bool.not_eq_false, admitted_eq_false_iff, not_or, not_or]
  exact ⟨not_not.mpr hw, not_not.mpr hoff, hend⟩

/-- The offsets from 0x14 on are reserved (R50). -/
theorem regAt_reserved {off : Fin 64} (h : 0x14 ≤ off.val) : regAt off = none := by
  revert off
  decide

/-- The offsets from 0x0C on name no writable register (R50). -/
theorem regAt_readOnly {off : Fin 64} (h : 0x0C ≤ off.val) :
    regAt off = some .res0 ∨ regAt off = some .res1 ∨ regAt off = none := by
  revert off
  decide

/-- R51. -/
theorem readWindow_reserved (s : State) {off : Fin 64} (h : 0x14 ≤ off.val) : s.readWindow off = 0#32 := by
  rw [State.readWindow, regAt_reserved h]

/-- What the window holds does not depend on the port. -/
theorem readWindow_setPort (s : State) (evs : List Event) (r : Option Response) (off : Fin 64) :
    ({ s with inbox := evs, resp := r } : State).readWindow off = s.readWindow off := by
  unfold State.readWindow
  cases regAt off with
  | none => rfl
  | some reg => cases reg <;> rfl

@[simp] theorem readWindow_respond (s : State) (r : Response) (off : Fin 64) :
    (s.respond r).readWindow off = s.readWindow off :=
  readWindow_setPort s s.inbox (some r) off

@[simp] theorem readWindow_accept (s : State) (rest : List Event) (off : Fin 64) :
    (s.accept rest).readWindow off = s.readWindow off :=
  readWindow_setPort s rest s.resp off

/-- R51, R58: RES0, RES1 and the reserved offsets ignore writes. -/
theorem hostWrite_ignored {off : Fin 64} (d : Word) (s : State) (h : 0x0C ≤ off.val) :
    hostWrite off d s = .next (s.respond .done) := by
  rcases regAt_readOnly h with hr | hr | hr <;> rw [hostWrite, hr]

theorem serveAccess_write {off : Fin 64} (d : Word) (s : State) (h : off.val % 4 = 0) :
    serveAccess ⟨off, .w32, .write d⟩ s = hostWrite off d s :=
  serveEvent_write d s h

/-- R57's acknowledgement is idempotent. -/
theorem writeStatus_writeStatus (s : State) (d : Word) : (s.writeStatus d).writeStatus d = s.writeStatus d := by
  cases hd : d.getLsbD 0 with
  | true => simp only [writeStatus_of_set _ hd]
  | false => simp only [writeStatus_of_clear _ hd]

theorem writeStatus_respond (s : State) (d : Word) (r : Response) :
    (s.respond r).writeStatus d = (s.writeStatus d).respond r := by
  cases hd : d.getLsbD 0 with
  | true => simp only [writeStatus_of_set _ hd, State.respond]
  | false => simp only [writeStatus_of_clear _ hd]

theorem writeStatus_accept (s : State) (d : Word) (rest : List Event) :
    (s.accept rest).writeStatus d = (s.writeStatus d).accept rest := by
  cases hd : d.getLsbD 0 with
  | true => simp only [writeStatus_of_set _ hd, State.accept]
  | false => simp only [writeStatus_of_clear _ hd]

section Effect

variable {a : Access} {s t : State}

/-- `serveAccess_spec` read backwards: an effect of an access is what serving the access does. -/
theorem AccessEffect.serveAccess_eq (h : AccessEffect a s t) : serveAccess a s = .next t := by
  cases h with
  | error hadm => simp [serveAccess, hadm]
  | read hadm hk => simp [serveAccess, hadm, hk, hostRead]
  | ignored hadm v hk h0 => simp [serveAccess, hadm, hk, hostWrite_ignored v s h0]
  | arg v ha => exact ha ▸ serveAccess_write v s rfl
  | status d ha => exact ha ▸ serveAccess_write d s rfl
  | illegal d c hd ha =>
    rw [ha, serveAccess_write d s rfl]
    show runCmd d s = _
    rw [runCmd, hd]
  | command d i hd ha =>
    rw [ha, serveAccess_write d s rfl]
    show runCmd d s = _
    rw [runCmd, hd]
    exact exec_eq i _

/-- What an access does to the registers does not depend on what the block has yet to receive. -/
theorem AccessEffect.accept (h : AccessEffect a s t) (rest : List Event) :
    AccessEffect a (s.accept rest) (t.accept rest) := by
  cases h with
  | error hadm => exact .error hadm
  | read hadm hk =>
    have hread := AccessEffect.read (s := s.accept rest) hadm hk
    rw [readWindow_accept] at hread
    exact hread
  | ignored hadm v hk h0 => exact .ignored hadm v hk h0
  | arg v ha => exact .arg v ha
  | status d ha => exact writeStatus_accept (s.respond .done) d rest ▸ .status d ha
  | illegal d c hd ha => exact .illegal d c hd ha
  | command d i hd ha => exact .command d i hd ha

/-- R61: the state that an access leaves is left as it is by the same access. A command repeats its results because they
are a function of ARG, which it does not write. -/
theorem AccessEffect.again (h : AccessEffect a s t) : AccessEffect a t t := by
  cases h with
  | error hadm => exact .error hadm
  | read hadm hk =>
    have hread := AccessEffect.read (s := s.respond (.data (s.readWindow a.off))) hadm hk
    rw [readWindow_respond] at hread
    exact hread
  | ignored hadm v hk h0 => exact .ignored hadm v hk h0
  | arg v ha => exact .arg v ha
  | status d ha =>
    have hfix : (((s.respond .done).writeStatus d).respond .done).writeStatus d = (s.respond .done).writeStatus d := by
      rw [writeStatus_respond, writeStatus_writeStatus, ← writeStatus_respond]
      rfl
    simpa only [hfix] using AccessEffect.status (s := (s.respond .done).writeStatus d) d ha
  | illegal d c hd ha => exact .illegal d c hd ha
  | command d i hd ha => exact .command d i hd ha

/-- A read, admitted or not, does nothing but answer (R61, R184). -/
theorem AccessEffect.of_read (h : AccessEffect a s t) (hk : a.kind = .read) : ∃ r, t = s.respond r := by
  cases h with
  | error | read => exact ⟨_, rfl⟩
  | ignored hadm v hv => cases hk.symm.trans hv
  | arg v ha | status d ha | illegal d c hd ha | command d i hd ha => simp [ha] at hk

/-- Only an access that is not admitted gets the error response (R184, R185). -/
theorem AccessEffect.not_admitted_of_error (h : AccessEffect a s t) {off : Fin 64} (hr : t.resp = some (.error off)) :
    a.admitted = false ∧ a.off = off := by
  cases h with
  | error hadm => simpa [hadm] using hr
  | read | ignored | arg | status | illegal | command => simp at hr

/-- The step that serves an access, from its effect. -/
theorem AccessEffect.step_eq (h : AccessEffect a s t) (rest : List Event) :
    step { s with inbox := .access a :: rest } = .next (t.accept rest) :=
  (step_access s a rest).trans (h.accept rest).serveAccess_eq

end Effect

/-- R55 to R58: an admitted read returns what the window holds, and changes nothing. -/
theorem step_readWindow (s : State) {off : Fin 64} (rest : List Event) (h : off.val % 4 = 0) :
    step { s with inbox := Event.read off :: rest } =
      .next { s with inbox := rest, resp := some (.data (s.readWindow off)) } :=
  AccessEffect.step_eq (.read (admitted_of_word rfl h) rfl) rest

theorem step_read_reserved (s : State) {off : Fin 64} (rest : List Event) (h0 : 0x14 ≤ off.val) (h : off.val % 4 = 0) :
    step { s with inbox := Event.read off :: rest } = .next { s with inbox := rest, resp := some (.data 0#32) } := by
  rw [step_readWindow s rest h, readWindow_reserved s h0]

theorem step_write_ignored (s : State) {off : Fin 64} (v : Word) (rest : List Event) (h0 : 0x0C ≤ off.val)
    (h : off.val % 4 = 0) :
    step { s with inbox := Event.write off v :: rest } = .next { s with inbox := rest, resp := some .done } :=
  AccessEffect.step_eq (.ignored (admitted_of_word rfl h) v rfl h0) rest

end Sys2Proof.Machine

/-! SUPPORT. Runs over a list of events: a run is cut in two, and ARG outlasts every event that neither writes nor resets
it (R62). -/

namespace Sys2Proof.Machine

theorem runSteps_add {m : Nat} {s t : State} (h : runSteps m s = .next t) (n : Nat) :
    runSteps (m + n) s = runSteps n t := by
  induction m generalizing s with
  | zero =>
    cases h
    rw [Nat.zero_add]
  | succ m ih =>
    obtain ⟨u, hu⟩ := exists_step s
    rw [runSteps_succ hu] at h
    rw [Nat.succ_add, runSteps_succ hu, ih h]

/-- A step that serves no ARG write and no reset leaves ARG (R21). -/
theorem step_keeps_arg {s t : State} {e : Event} {rest : List Event} (h : step s = .next t) (hi : s.inbox = e :: rest)
    (he : ¬ e.writesArg ∧ ¬ e.resets) : t.arg = s.arg := by
  rcases step_arg h with harg | ⟨e', rest', hi', hev⟩
  · exact harg
  · cases hi.symm.trans hi'
    exact absurd hev (not_or.mpr he)

/-- A run over events that neither write nor reset ARG leaves ARG (R21, R62). -/
theorem runSteps_keeps_arg {mids post : List Event} (hmids : ∀ e ∈ mids, ¬ e.writesArg ∧ ¬ e.resets) {s : State}
    (hi : s.inbox = mids ++ post) :
    ∃ t, runSteps mids.length s = .next t ∧ t.arg = s.arg ∧ t.inbox = post := by
  induction mids generalizing s with
  | nil => exact ⟨s, rfl, rfl, hi⟩
  | cons e mids ih =>
    obtain ⟨he, hmids⟩ := List.forall_mem_cons.mp hmids
    obtain ⟨u, hu⟩ := exists_step s
    obtain ⟨t, ht, harg, hpost⟩ := ih hmids (s := u) (by rw [step_inbox hu, hi]; rfl)
    exact ⟨t, (runSteps_succ hu _).trans ht, harg.trans (step_keeps_arg hu hi he), hpost⟩

end Sys2Proof.Machine

/-! SUPPORT. The platform's address decode (R50). -/

namespace Sys2Proof.Machine

theorem accessAt_window (off : Fin 64) (w : Width) (k : AccessKind) :
    accessAt (Config.base + off.val) w k = some ⟨off, w, k⟩ := by
  simp [accessAt]

theorem accessAt_outside {addr : Nat} (w : Width) (k : AccessKind)
    (h : addr < Config.base ∨ Config.base + 0x3F < addr) : accessAt addr w k = none := by
  rw [accessAt]
  rcases h with h | h
  · rw [if_neg (by omega)]
  · rw [if_pos (by omega), dif_neg (by omega)]

end Sys2Proof.Machine

/-! SUPPORT. The obligations about the register window (spec/20_memory.md). -/

namespace Sys2Proof.Machine

/-- Settles O19: an access that is not admitted has the effect `AccessEffect.error`, and no other effect is an error. -/
theorem busErrorChangesNoRegister : Obligations.BusErrorChangesNoRegister := by
  intro s a rest
  refine ⟨fun hbad => ?_, fun hw hoff => ?_⟩
  · exact AccessEffect.step_eq (.error ((admitted_eq_false_iff a).mpr hbad)) rest
  · obtain ⟨t, -, he⟩ := serveAccess_spec a s
    refine ⟨_, he.step_eq rest, fun off hr => ?_⟩
    obtain ⟨hbad, -⟩ := he.not_admitted_of_error hr
    exact absurd (admitted_of_word hw hoff) (by simp [hbad])

/-- Settles O23: the window at each register's offset is the register. -/
theorem readsReturnRegistersWithoutEffect : Obligations.ReadsReturnRegistersWithoutEffect := by
  intro s rest
  refine ⟨?_, ?_, ?_, ?_, ?_, fun off h0 h => step_read_reserved s rest h0 h⟩
  all_goals exact step_readWindow s rest (by decide)

/-- Settles O27: the write sets ARG, `runSteps_keeps_arg` carries it over the events between, and the read returns it. -/
theorem argReadReturnsLastWrite : Obligations.ArgReadReturnsLastWrite := by
  refine ⟨fun s v rest => ⟨step_write_arg s v rest, step_readWindow s rest (by decide)⟩, fun s v mids rest hmids => ?_⟩
  have hwrite := step_write_arg s v (mids ++ Event.read 0x00 :: rest)
  obtain ⟨u, hu, harg, hi⟩ := runSteps_keeps_arg hmids
    (s := { s with inbox := mids ++ Event.read 0x00 :: rest, resp := some .done, arg := v }) rfl
  have hread : step u = .next { u with inbox := rest, resp := some (.data u.arg) } := by
    rw [step_cons u _ rest hi]
    exact step_readWindow u rest (by decide)
  refine ⟨{ u with inbox := rest, resp := some (.data u.arg) }, ?_, rfl, harg, congrArg (some <| Response.data ·) harg⟩
  rw [runSteps_succ hwrite, runSteps_add hu, runSteps_succ hread, runSteps]

/-- Settles O28. -/
theorem readOnlyAndReservedWritesIgnored : Obligations.ReadOnlyAndReservedWritesIgnored := by
  intro s rest
  exact ⟨fun off v h0 h => step_write_ignored s v rest h0 h, step_readWindow s rest (by decide),
    step_readWindow s rest (by decide), fun off h0 h => step_read_reserved s rest h0 h⟩

/-- Settles O29: `AccessEffect.again`, and the port does not matter to either serving. -/
theorem everyAccessIsIdempotent : Obligations.EveryAccessIsIdempotent := by
  refine ⟨fun s a rest => ?_, fun s a rest hk => ?_⟩
  · obtain ⟨t, -, he⟩ := serveAccess_spec a s
    have hfirst := he.step_eq (.access a :: rest)
    have hsecond : step (t.accept (.access a :: rest)) = .next (t.accept rest) := he.again.step_eq rest
    have honce := he.step_eq rest
    rw [runSteps_succ hfirst, runSteps_succ hsecond, runSteps_succ honce]
  · obtain ⟨t, -, he⟩ := serveAccess_spec a s
    obtain ⟨r, rfl⟩ := he.of_read hk
    exact ⟨r, he.step_eq rest⟩

/-- Settles O22: a word that decodes to a command is the command's own. -/
theorem stepRunsDecodedCommand : Obligations.StepRunsDecodedCommand := by
  intro s d i rest hd
  rw [eq_encode_of_decodeCmd hd]
  exact step_command (s := { s with inbox := Event.write 0x04 (encode i) :: rest }) rfl

/-- Settles O26: the two cases of `State.writeStatus`. -/
theorem statusWriteClearsError : Obligations.StatusWriteClearsError := by
  intro s rest
  refine ⟨fun d => ?_, step_readWindow s rest (by decide)⟩
  rw [step_write_status]
  cases hd : d.getLsbD 0 with
  | true => simp only [writeStatus_of_set _ hd, if_true]
  | false => simp only [writeStatus_of_clear _ hd, Bool.false_eq_true, if_false]

/-- Settles O30. -/
theorem windowIsSixtyFourBytesAtBase : Obligations.WindowIsSixtyFourBytesAtBase := by
  refine ⟨Nat.mul_mod_right 64 _, fun s off w k => ?_, fun s addr w k h => ?_⟩
  · rw [State.issue, accessAt_window]
  · rw [State.issue, accessAt_outside w k h]

end Sys2Proof.Machine

/-! SUPPORT. The decoder on the fields and on the number of a command word, and its causes of refusal (R80 to R86). -/

namespace Sys2Proof.Machine

/-- The reserved bits as a number (R81). -/
theorem cmdRsv_eq_zero_iff (d : Word) : cmdRsv d = 0#28 ↔ d.toNat / 16 = 0 := by
  have hlt : d.toNat < 4294967296 := d.isLt
  have hrsv : (cmdRsv d).toNat = d.toNat / 16 % 268435456 := by simp [cmdRsv, Nat.shiftRight_eq_div_pow]
  rw [← BitVec.toNat_inj, hrsv, Nat.mod_eq_of_lt (by omega)]
  rfl

/-- The opcode as a number (R81). -/
theorem cmdOpc_eq_iff (d : Word) (o : BitVec 4) : cmdOpc d = o ↔ d.toNat % 16 = o.toNat := by
  have hopc : (cmdOpc d).toNat = d.toNat % 16 := by simp [cmdOpc]
  rw [← BitVec.toNat_inj, hopc]

/-- Decoding inverts encoding (R85). -/
theorem decodeCmd_eq_command_iff (i : Instr) (d : Word) : decodeCmd d = .command i ↔ d = encode i :=
  ⟨eq_encode_of_decodeCmd, fun h => h ▸ decodeCmd_encode i⟩

/-- Set reserved bits are refused before the opcode is looked at (R84). -/
theorem decodeCmd_reservedBits {d : Word} (h : cmdRsv d ≠ 0#28) : decodeCmd d = .illegal .reservedBits :=
  if_pos h

/-- An opcode that is no command's is refused by all four tests (R83). -/
theorem decodeCmd_reservedOpcode {d : Word} (hrsv : cmdRsv d = 0#28) (hopc : ∀ i : Instr, cmdOpc d ≠ i.opcode) :
    decodeCmd d = .illegal .reservedOpcode :=
  calc decodeCmd d
    _ = _ := if_neg (not_not.mpr hrsv)
    _ = _ := if_neg (hopc .fdec)
    _ = _ := if_neg (hopc .fenc)
    _ = _ := if_neg (hopc .ppack)
    _ = _ := if_neg (hopc .punpack)

/-- The reserved opcodes are no command's (R82, R83). -/
theorem ne_opcode_of_reserved {o : BitVec 4} (h : o = 0x0#4 ∨ 5 ≤ o.toNat) (i : Instr) : o ≠ i.opcode := by
  rintro rfl
  have := opcode_le_four i
  exact h.elim (opcode_ne_zero i) (by omega)

/-- The command words are the numbers 1 to 4 (R85). -/
theorem exists_eq_encode_iff (d : Word) : (∃ i, d = encode i) ↔ 1 ≤ d.toNat ∧ d.toNat ≤ 4 := by
  constructor
  · rintro ⟨i, rfl⟩
    cases i <;> decide
  · rintro ⟨hlo, hhi⟩
    obtain h | h | h | h : d.toNat = 1 ∨ d.toNat = 2 ∨ d.toNat = 3 ∨ d.toNat = 4 := by omega
    exacts [⟨.fdec, BitVec.eq_of_toNat_eq h⟩, ⟨.fenc, BitVec.eq_of_toNat_eq h⟩,
      ⟨.ppack, BitVec.eq_of_toNat_eq h⟩, ⟨.punpack, BitVec.eq_of_toNat_eq h⟩]

/-- A numbered word of the opcode table decodes as the 32-bit word of that number, and only that has a command (R80). -/
theorem decodeTableWord_eq_some_iff (i : Instr) (nbits w : Nat) :
    decodeTableWord nbits w = some i ↔ (nbits = 32 ∧ w < 2 ^ 32) ∧ decodeCmd (BitVec.ofNat 32 w) = .command i := by
  rw [decodeTableWord]
  split_ifs with hlen
  · rw [and_iff_right hlen]
    cases decodeCmd (BitVec.ofNat 32 w) <;> simp
  · simp only [hlen, false_and]

/-- The 32-bit word of a number is a command's word exactly when the number is that word's. -/
theorem ofNat_eq_encode_iff (i : Instr) (w : Nat) :
    (w < 2 ^ 32 ∧ BitVec.ofNat 32 w = encode i) ↔ w = (encode i).toNat := by
  constructor
  · rintro ⟨hlt, h⟩
    rw [← h, BitVec.toNat_ofNat, Nat.mod_eq_of_lt hlt]
  · rintro rfl
    exact ⟨(encode i).isLt, by rw [BitVec.ofNat_toNat, BitVec.setWidth_eq]⟩

end Sys2Proof.Machine

/-! SUPPORT. Runs of a pseudo-instruction's accesses (R92). -/

namespace Sys2Proof.Machine

theorem runSteps_one (s : State) : runSteps 1 s = step s := by
  rw [runSteps]
  cases step s <;> rfl

/-- A write of ARG and then a command: the command runs on the new operand (R91, R92). -/
theorem runSteps_arg_command (i : Instr) (s : State) (v : Word) (rest : List Event) :
    runSteps 2 { s with inbox := HostStmt.event (.wr .arg v) :: HostStmt.event (.cmd i) :: rest } =
      exec i { s with arg := v, inbox := rest, resp := some .done } := by
  have hwrite := step_write_arg s v (HostStmt.event (.cmd i) :: rest)
  exact (runSteps_succ hwrite 1).trans ((runSteps_one _).trans (step_command rfl))

end Sys2Proof.Machine

/-! SUPPORT. The obligations about decoding, encoding and the host's assembly (spec/30_encoding.md). -/

namespace Sys2Proof.Machine

/-- Settles O3: `decodeCmd_eq_command_iff`, carried to numbers by `ofNat_eq_encode_iff`. -/
theorem decodeInvertsEncode : Obligations.DecodeInvertsEncode := by
  refine ⟨decodeCmd_eq_command_iff, fun i nbits w => ?_⟩
  rw [decodeTableWord_eq_some_iff, decodeCmd_eq_command_iff, and_assoc, ofNat_eq_encode_iff]

/-- Settles O1: each test of the decoder, read on the number of the word. -/
theorem decodeIsTotalByRuleR86 : Obligations.DecodeIsTotalByRuleR86 := by
  intro d
  simp only [decodeCmd, ne_eq, cmdRsv_eq_zero_iff, cmdOpc_eq_iff, BitVec.reduceToNat]

/-- Settles O2: the words that decode to a command are the encodings, and those are 1 to 4. -/
theorem legalWordsAreOneToFour : Obligations.LegalWordsAreOneToFour := by
  have hlegal (d : Word) : (∃ i, decodeCmd d = .command i) ↔ 1 ≤ d.toNat ∧ d.toNat ≤ 4 := by
    simp only [decodeCmd_eq_command_iff, exists_eq_encode_iff]
  refine ⟨hlegal, fun d hd => ?_⟩
  cases h : decodeCmd d with
  | illegal c => exact ⟨c, rfl⟩
  | command i =>
    have := (hlegal d).mp ⟨i, h⟩
    omega

/-- Settles O18: the cause by which the decoder refuses the word is the one that `step_illegal` records. -/
theorem reservedBitsWinOverReservedOpcode : Obligations.ReservedBitsWinOverReservedOpcode := by
  refine fun s d rest => ⟨fun hrsv => ?_, fun hrsv hopc => ?_⟩
  · exact step_illegal s rest (decodeCmd_reservedBits hrsv)
  · exact step_illegal s rest (decodeCmd_reservedOpcode hrsv (ne_opcode_of_reserved hopc))

/-- Settles O4. -/
theorem writtenOutWordsDecode : Obligations.WrittenOutWordsDecode :=
  ⟨decodeCmd_encode .fdec, decodeCmd_encode .fenc, decodeCmd_encode .ppack, decodeCmd_encode .punpack,
    decodeCmd_reservedOpcode rfl (ne_opcode_of_reserved (.inl rfl)),
    decodeCmd_reservedOpcode rfl (ne_opcode_of_reserved (.inr (by decide))),
    decodeCmd_reservedBits (by decide), decodeCmd_reservedBits (by decide)⟩

/-- Settles O31: four times `runSteps_arg_command`, and the STATUS write with bit 0 set. -/
theorem pseudoInstructionsAreTheirExpansion : Obligations.PseudoInstructionsAreTheirExpansion := by
  intro s v rest
  refine ⟨runSteps_arg_command .fdec s v rest, runSteps_arg_command .fenc s v rest,
    runSteps_arg_command .ppack s v rest, runSteps_arg_command .punpack s v rest, ?_⟩
  calc runSteps 1 { s with inbox := Pseudo.clrerr.events ++ rest }
    _ = step { s with inbox := Event.write 0x08 1#32 :: rest } := runSteps_one _
    _ = .next (State.writeStatus { s with inbox := rest, resp := some .done } 1#32) := step_write_status s 1#32 rest
    _ = _ := by rw [writeStatus_of_set _ (by decide)]

end Sys2Proof.Machine

/-! SUPPORT. The frequency codec in closed form (R105, R109), the ranges and round trips that follow from it, and the
results of FDEC and FENC as numbers. -/

namespace Sys2Proof.Machine

/-- The constant of both directions as a numeral, which `omega` reads (R100). -/
theorem stepK_eq : stepK = 203125 := rfl

/-! ## The decode -/

/-- The low part is `cl` times the step, rounded to nearest (R105). -/
theorem freqLow_closed (c : Nat) : freqLow c = (c % 16384 * 203125 + 512) / 1024 := by
  rw [freqLow_eq]
  omega

/-- The high part is `ch` times `2^14` steps, truncated to 32 bits (R105). -/
theorem freqHigh_closed (c : Nat) : freqHigh c = c / 16384 % 2048 * 3250000 % 4294967296 := by
  rw [freqHigh_eq, Nat.mul_assoc]

/-- In the design range nothing of the high part is lost (R105). -/
theorem freqHigh_of_designRange {c : Nat} (h : c / 16384 % 2048 ≤ 1321) :
    freqHigh c = c / 16384 % 2048 * 3250000 := by
  rw [freqHigh_closed, Nat.mod_eq_of_lt (by omega)]

/-- Beyond the design range the high part loses exactly `2^32` (R105). -/
theorem freqHigh_of_wrap {c : Nat} (h : 1322 ≤ c / 16384 % 2048) :
    freqHigh c + 4294967296 = c / 16384 % 2048 * 3250000 := by
  have hch : c / 16384 % 2048 < 2048 := Nat.mod_lt _ (by decide)
  rw [freqHigh_closed]
  omega

/-- `c25` is put together from its two fields (R101). -/
theorem code25_eq (c : Nat) : c % 33554432 = 16384 * (c / 16384 % 2048) + c % 16384 := by
  omega

/-- R105: in the design range the decode is the code times the step, rounded to nearest. -/
theorem freqDecode_of_designRange {c : Nat} (h : c / 16384 % 2048 ≤ 1321) :
    freqDecode c = (c % 33554432 * 203125 + 512) / 1024 := by
  rw [freqDecode, freqLow_closed, freqHigh_of_designRange h, code25_eq]
  omega

/-- The codes up to FENC's largest are in the design range and have no ignored bits (R110). -/
theorem freqDecode_of_le {c : Nat} (h : c ≤ 21651921) : freqDecode c = (c * 203125 + 512) / 1024 := by
  rw [freqDecode_of_designRange (by omega), Nat.mod_eq_of_lt (by omega)]

/-- R105: a wrapped decode is below the code times the step. -/
theorem freqDecode_lt_of_wrap {c : Nat} (h : 1322 ≤ c / 16384 % 2048) :
    1024 * freqDecode c < c % 33554432 * 203125 := by
  have hhigh := freqHigh_of_wrap h
  rw [freqDecode, freqLow_closed, code25_eq]
  omega

/-- R105: the decode is strictly increasing in `c25` on the design range. -/
theorem freqDecode_lt_freqDecode {c d : Nat} (hcd : c % 33554432 < d % 33554432) (hd : d / 16384 % 2048 ≤ 1321) :
    freqDecode c < freqDecode d := by
  have hc : c / 16384 % 2048 ≤ 1321 := by omega
  rw [freqDecode_of_designRange hc, freqDecode_of_designRange hd]
  omega

/-- R104: the largest high part is that of the last `ch` before the truncation bites. -/
theorem freqHigh_le (c : Nat) : freqHigh c ≤ 4293250000 := by
  rcases Nat.lt_or_ge (c / 16384 % 2048) 1322 with h | h
  · rw [freqHigh_of_designRange (by omega)]
    omega
  · have hwrap := freqHigh_le_of_wrapFlag ((wrapFlag_iff c).mpr h)
    omega

/-- R104, R106: the largest decode. -/
theorem freqDecode_le (c : Nat) : freqDecode c ≤ 4296499802 :=
  Nat.add_le_add (freqLow_le c) (freqHigh_le c)

/-- R105: the largest wrapped decode. -/
theorem freqDecode_le_of_wrap {c : Nat} (h : 1322 ≤ c / 16384 % 2048) : freqDecode c ≤ 2357782704 + 3249802 := by
  have hlow := freqLow_le c
  have hhigh := freqHigh_le_of_wrapFlag ((wrapFlag_iff c).mpr h)
  rw [freqDecode]
  omega

/-- R106: the codes whose decode needs a 33rd bit. -/
theorem freqDecode_carry_iff (c : Nat) :
    4294967296 ≤ freqDecode c ↔ c / 16384 % 2048 = 1321 ∧ 8658 ≤ c % 16384 := by
  rcases Nat.lt_or_ge (c / 16384 % 2048) 1322 with h | h
  · rw [freqDecode, freqLow_closed, freqHigh_of_designRange (by omega)]
    omega
  · have hlt : freqDecode c < 4294967296 := freqDecode_lt_of_wrapFlag ((wrapFlag_iff c).mpr h)
    omega

/-! ## The encode -/

/-- Steps 2 to 4 of R107 are one division (R109): the quotient and the remainder are scaled apart. -/
theorem encodeScaled_closed (f : Nat) : encodeScaled f = 2048 * f / 203125 := by
  rw [encodeScaled, Nat.shiftLeft_eq, Nat.shiftLeft_eq, stepK_eq]
  omega

/-- R108: the largest scaled quotient. -/
theorem encode_quotient_le {f : Nat} (h : f < 4294967296) : (f / stepK) <<< 11 ≤ 43302912 := by
  rw [Nat.shiftLeft_eq, stepK_eq]
  omega

/-- R108: the largest scaled remainder. -/
theorem encode_remainder_le (f : Nat) : (f % stepK) <<< 11 ≤ 415997952 := by
  rw [Nat.shiftLeft_eq, stepK_eq]
  omega

/-- R108: the largest code before the rounding. -/
theorem encodeScaled_le {f : Nat} (h : f < 4294967296) : encodeScaled f ≤ 43303842 := by
  rw [encodeScaled_closed]
  omega

/-- R109: the encode is the frequency divided by the step, rounded to nearest. -/
theorem freqEncode_closed (f : Nat) : freqEncode f = (2048 * f + 203125) / 406250 := by
  rw [freqEncode, roundHalf_eq, encodeScaled_closed]
  omega

/-- R109: `2048 f` is even and an odd multiple of 203125 is odd. -/
theorem encode_tie_ne (f n : Nat) : 2048 * f ≠ 203125 * (2 * n + 1) := by
  omega

theorem freqEncode_mono {f g : Nat} (h : f ≤ g) : freqEncode f ≤ freqEncode g := by
  rw [freqEncode_closed, freqEncode_closed]
  exact Nat.div_le_div_right (by omega)

/-! ## The round trips -/

/-- The decode of a code that FENC gives fits 32 bits (R106). -/
theorem freqDecode_lt_of_le {c : Nat} (h : c ≤ 21651921) : freqDecode c < 4294967296 := by
  rw [freqDecode_of_le h]
  omega

/-- R113: the decode is within half a hertz of the code times the step, so the encode rounds back. -/
theorem freqEncode_freqDecode {c : Nat} (h : c ≤ 21651921) : freqEncode (freqDecode c) = c := by
  rw [freqEncode_closed, freqDecode_of_le h]
  omega

/-- R114: half a step and half a hertz together are less than 100 Hz. -/
theorem freqDecode_freqEncode_near {f : Nat} (h : f < 4294967296) :
    freqDecode (freqEncode f) ≤ f + 99 ∧ f ≤ freqDecode (freqEncode f) + 99 := by
  rw [freqDecode_of_le (freqEncode_le h), freqEncode_closed]
  omega

/-- R114: the round trip is exact on the decodes of FENC's codes and nowhere else. -/
theorem freqDecode_freqEncode_eq_iff {f : Nat} (h : f < 4294967296) :
    freqDecode (freqEncode f) = f ↔ ∃ c, c ≤ 21651921 ∧ freqDecode c = f := by
  constructor
  · exact fun hf => ⟨freqEncode f, freqEncode_le h, hf⟩
  · rintro ⟨c, hc, rfl⟩
    rw [freqEncode_freqDecode hc]

/-! ## The results of FDEC and FENC -/

/-- What FDEC puts in RES0 (R111). -/
theorem freqDecode_bits_low (c : Nat) : bits (freqDecode c) 31 0 = freqDecode c % 4294967296 := by
  rw [bits_eq]
  omega

/-- What FDEC puts in RES1: a frequency has at most 33 bits (R102, R111). -/
theorem freqDecode_bits_carry (c : Nat) : bits (freqDecode c) 32 32 = freqDecode c / 4294967296 := by
  have hle := freqDecode_le c
  rw [bits_eq]
  omega

/-- RES0 of FDEC is the low 32 bits of the frequency (R111). -/
theorem fdecResult_r0_toNat (a : Nat) : (fdecResult a).r0.toNat = freqDecode a % 4294967296 := by
  rw [fdecResult, freqDecode_bits_low]
  exact zext32_toNat (Nat.mod_lt _ (by decide))

/-- A decode below `2^32` leaves RES1 at 0 and stands in RES0 (R111). -/
theorem fdecResult_of_lt {a : Nat} (h : freqDecode a < 4294967296) :
    (fdecResult a).r1 = 0#32 ∧ (fdecResult a).r0.toNat = freqDecode a := by
  rw [← BitVec.toNat_inj, fdecResult_r1_toNat, fdecResult_r0_toNat, Nat.div_eq_of_lt h, Nat.mod_eq_of_lt h]
  exact ⟨rfl, rfl⟩

/-- RES1 bit 0 of FDEC is the 33rd bit of the frequency (R106, R111). -/
theorem fdecResult_r1_bit_iff (a : Nat) : (fdecResult a).r1.getLsbD 0 = true ↔ 4294967296 ≤ freqDecode a := by
  have hle := freqDecode_le a
  rw [BitVec.getLsbD, fdecResult_r1_toNat, Nat.testBit_zero, decide_eq_true_iff]
  omega

/-- R111 field by field. -/
theorem fdecResult_eq (a : Word) : fdecResult a.toNat =
    { r0 := BitVec.ofNat 32 (freqDecode a.toNat % 4294967296), r1 := BitVec.ofNat 32 (freqDecode a.toNat / 4294967296)
      w := decide (1322 ≤ a.toNat / 16384 % 2048), i := decide (33554432 ≤ a.toNat), q := false, s := false } := by
  have hlt : a.toNat < 4294967296 := a.isLt
  have hw : wrapFlag a.toNat = decide (1322 ≤ a.toNat / 16384 % 2048) := by
    rw [Bool.eq_iff_iff, wrapFlag_iff, decide_eq_true_iff]
  have hi : ignFlagFdec a.toNat = decide (33554432 ≤ a.toNat) := by
    rw [ignFlagFdec, codeIgnored_eq, decide_eq_decide]
    omega
  rw [fdecResult, freqDecode_bits_low, freqDecode_bits_carry, hw, hi, zext32, zext32]

end Sys2Proof.Machine

/-! SUPPORT. The obligations about the frequency codec (spec/40_frequency_codec.md). -/

namespace Sys2Proof.Machine

/-- Settles O5: `fdecResult_eq`, with the decode written out. -/
theorem fdecDecodesEveryCode : Obligations.FdecDecodesEveryCode := by
  refine ⟨decodeCmd_encode .fdec, fun s => ?_⟩
  have hle := freqDecode_le s.arg.toNat
  have hexec := exec_eq .fdec s
  rw [cmdResult, fdecResult_eq, freqDecode_eq] at hexec
  rw [freqDecode_eq] at hle
  exact ⟨hle.trans_lt (by decide), hexec⟩

/-- Settles O6: `freqEncode_closed`, and the bounds of R107's steps. -/
theorem fencEncodesEveryFrequency : Obligations.FencEncodesEveryFrequency := by
  refine ⟨decodeCmd_encode .fenc, fun s => ?_⟩
  have hle := freqEncode_le s.arg.isLt
  have hexec := exec_eq .fenc s
  rw [cmdResult, fencResult, freqEncode_closed] at hexec
  rw [freqEncode_closed] at hle
  exact ⟨hle, ⟨(encode_quotient_le s.arg.isLt).trans_lt (by decide), (encode_remainder_le _).trans_lt (by decide),
    (encodeScaled_le s.arg.isLt).trans_lt (by decide)⟩, hexec⟩

/-- Settles O43: the two parts in closed form, and the decode apart for the design range and beyond it. -/
theorem decodeClosedForm : Obligations.DecodeClosedForm :=
  ⟨fun c _ => ⟨freqLow_closed c, freqHigh_closed c, rfl, freqDecode_of_designRange,
      fun h => ⟨freqDecode_le_of_wrap h, freqDecode_lt_of_wrap h⟩⟩,
    fun _ _ => freqDecode_lt_freqDecode⟩

/-- Settles O44: where the carry is set, in the three forms that the statement gives it. -/
theorem decodeOutputRange : Obligations.DecodeOutputRange := by
  refine ⟨by decide, fun c _ => ?_, by decide, fun s => ⟨_, exec_eq .fdec s, fdecResult_r1_bit_iff _⟩⟩
  have hcarry := freqDecode_carry_iff c
  refine ⟨?_, ?_, hcarry, freqDecode_le c⟩
  · omega
  · omega

/-- Settles O45: the bounds of the parts follow from those of the two fields of the code. -/
theorem decodeIntermediateRanges : Obligations.DecodeIntermediateRanges := by
  refine ⟨fun c => ?_, by decide, by decide, by decide, by decide, by decide, by decide, by decide⟩
  have hcl : codeLow c * stepK ≤ 3327796875 := by
    rw [codeLow_eq, stepK_eq]
    omega
  have hch : codeHigh c * stepK ≤ 415796875 := by
    rw [codeHigh_eq, stepK_eq]
    omega
  refine ⟨hcl, ?_, freqLow_le c, hch, ?_, freqHigh_le c, freqDecode_le c⟩
  · rw [Nat.shiftRight_eq_div_pow]
    omega
  · rw [Nat.shiftLeft_eq]
    omega

/-- Settles O46: the quotient is bounded by that of the largest frequency, the remainder by the divisor. -/
theorem encodeIntermediateRanges : Obligations.EncodeIntermediateRanges := by
  refine ⟨fun f hf => ⟨?_, encode_quotient_le hf, ?_, encode_remainder_le f, ?_, encodeScaled_le hf, freqEncode_le hf⟩,
    by decide, by decide, by decide, by decide, by decide, by decide, by decide⟩
  · rw [stepK_eq]
    omega
  · rw [stepK_eq]
    omega
  · have hrem := encode_remainder_le f
    exact (Nat.div_le_div_right hrem).trans (by decide)

/-- Settles O47: order and ties are read off the closed form. -/
theorem encodeClosedForm : Obligations.EncodeClosedForm :=
  ⟨fun f _ => freqEncode_closed f, encode_tie_ne, fun _ _ => freqEncode_mono⟩

/-- Settles O48: the closed form's thresholds; the image is the whole range because the encode undoes the decode. -/
theorem encodeOutputRange : Obligations.EncodeOutputRange := by
  refine ⟨fun f hf => ⟨freqEncode_le hf, ?_⟩, fun s => ⟨_, exec_eq .fenc s, ?_⟩, fun c hc => ?_⟩
  · rw [freqEncode_closed]
    omega
  · have hle := freqEncode_le s.arg.isLt
    have hres0 := fencResult_r0_toNat s.arg.isLt
    refine ⟨hres0, BitVec.eq_of_toNat_eq ?_, ?_⟩
    · rw [BitVec.extractLsb'_toNat, State.complete_res0, cmdResult, hres0, Nat.shiftRight_eq_div_pow]
      simp only [BitVec.toNat_ofNat]
      omega
    · rw [BitVec.extractLsb'_toNat, State.complete_res0, cmdResult, hres0, Nat.shiftRight_eq_div_pow]
      omega
  · exact ⟨freqDecode c, freqDecode_lt_of_le hc, freqEncode_freqDecode hc⟩

/-- Settles O49: `freqEncode_freqDecode` through the two commands, and the codes that set the 33rd bit. -/
theorem codeRoundTrip : Obligations.CodeRoundTrip := by
  refine ⟨fun s hs => ?_, fun c hc => ?_⟩
  · obtain ⟨hres1, hres0⟩ := fdecResult_of_lt (freqDecode_lt_of_le hs)
    refine ⟨_, _, exec_eq .fdec s, hres1, exec_eq .fenc _, BitVec.eq_of_toNat_eq ?_⟩
    calc (fencResult (fdecResult s.arg.toNat).r0.toNat).r0.toNat
      _ = freqEncode (fdecResult s.arg.toNat).r0.toNat := fencResult_r0_toNat (BitVec.isLt _)
      _ = freqEncode (freqDecode s.arg.toNat) := by rw [hres0]
      _ = s.arg.toNat := freqEncode_freqDecode hs
  · have hcarry := freqDecode_carry_iff c
    omega

/-- Settles O50: the bound and the exact cases of the pure round trip, and the bound again through the two commands. -/
theorem frequencyRoundTrip : Obligations.FrequencyRoundTrip := by
  refine ⟨fun f hf => ?_, fun s => ?_, by decide, by decide, by decide, by decide, by decide⟩
  · obtain ⟨hhi, hlo⟩ := freqDecode_freqEncode_near hf
    exact ⟨hhi, hlo, freqDecode_freqEncode_eq_iff hf⟩
  · have hcode : (fencResult s.arg.toNat).r0.toNat = freqEncode s.arg.toNat := fencResult_r0_toNat s.arg.isLt
    obtain ⟨hres1, hres0⟩ := fdecResult_of_lt (freqDecode_lt_of_le (freqEncode_le s.arg.isLt))
    obtain ⟨hhi, hlo⟩ := freqDecode_freqEncode_near s.arg.isLt
    rw [← hcode] at hres1 hres0 hhi hlo
    rw [← hres0] at hhi hlo
    exact ⟨_, _, exec_eq .fenc s, exec_eq .fdec _, hres1, hhi, hlo⟩

end Sys2Proof.Machine

/-! SUPPORT. The pack in closed form (R142): the bit length of the count fixes the exponent. Which pairs a pack gives back
(R147, R148), where the representable value is exact (R149), and the results of PPACK and PUNPACK as numbers. -/

namespace Sys2Proof.Machine

/-! ## The exponent -/

/-- What `halved_spec` says of the count itself: at least `8 * 2^k` if it was halved, and below `16 * 2^k` unless the exponent
ran out. -/
theorem halved_bracket (p : Nat) :
    ∃ k, k ≤ 15 ∧ halved p = (p / 2 ^ k, k) ∧ (k = 0 ∨ 8 * 2 ^ k ≤ p) ∧ (p < 16 * 2 ^ k ∨ k = 15) := by
  obtain ⟨k, hk, h, hlo, hhi⟩ := halved_spec p
  refine ⟨k, hk, h, ?_, hhi.imp_left fun hle => ?_⟩
  · rcases k with _ | k
    · exact .inl rfl
    · have hlt : 15 < p / 2 ^ k := by simpa using hlo
      have hmul : 16 * 2 ^ k ≤ p := (Nat.le_div_iff_mul_le (Nat.two_pow_pos k)).mp hlt
      rw [Nat.pow_succ]
      omega
  · exact (Nat.div_lt_iff_lt_mul (Nat.two_pow_pos k)).mp (Nat.lt_succ_of_le hle)

/-- The bracket determines the exponent: it is R142's closed form. -/
theorem exponent_eq_size {p k : Nat} (hk : k ≤ 15) (hlo : k = 0 ∨ 8 * 2 ^ k ≤ p) (hhi : p < 16 * 2 ^ k ∨ k = 15) :
    k = min 15 (Nat.size p - 4) := by
  have hlo : k = 0 ∨ 3 + k < Nat.size p := hlo.imp_right fun h => Nat.lt_size.mpr (by rwa [Nat.pow_add])
  have hhi : Nat.size p ≤ 4 + k ∨ k = 15 := hhi.imp_left fun h => Nat.size_le.mpr (by rwa [Nat.pow_add])
  omega

/-- R142 before the clamp. -/
theorem halved_closed (p : Nat) : halved p = (p / 2 ^ min 15 (Nat.size p - 4), min 15 (Nat.size p - 4)) := by
  obtain ⟨k, hk, h, hlo, hhi⟩ := halved_bracket p
  rw [h, ← exponent_eq_size hk hlo hhi]

/-- R142: the closed form of the pack. -/
theorem prePack_closed (p : Nat) :
    prePack p = (min 15 (p / 2 ^ min 15 (Nat.size p - 4)), min 15 (Nat.size p - 4)) := by
  rw [prePack_eq, halved_closed]

/-- R142: the clamp of R141 step 3 acts exactly from 524,288. -/
theorem lt_halved_iff (p : Nat) : 15 < (halved p).1 ↔ 524288 ≤ p := by
  obtain ⟨k, hk, h, -, hhi⟩ := halved_bracket p
  have hdiv : 15 < p / 2 ^ k ↔ 16 * 2 ^ k ≤ p := Nat.le_div_iff_mul_le (Nat.two_pow_pos k)
  rw [h, hdiv]
  rcases hk.lt_or_eq with hlt | rfl
  · have hpow : 2 ^ k ≤ 2 ^ 14 := Nat.pow_le_pow_right (by decide) (by omega)
    omega
  · exact Iff.rfl

/-! ## The representable value -/

/-- Below 524,288 the mantissa is the shifted count (R142). -/
theorem prePack_mantissa {p : Nat} (h : p < 524288) : (prePack p).1 = p / 2 ^ (prePack p).2 := by
  have hle : ¬ 15 < (halved p).1 := by
    rw [lt_halved_iff]
    omega
  rw [prePack_eq, Nat.min_eq_right (by omega), halved_closed]

/-- Below 524,288 the representable value is the count without its low bits (R142, R143). -/
theorem preRep_add_mod {p : Nat} (h : p < 524288) : preRep p + p % 2 ^ (prePack p).2 = p := by
  rw [preRep_eq, prePack_mantissa h, Nat.div_add_mod']

/-- R149: where the representable value is the count. -/
theorem preRep_eq_self_iff (p : Nat) : preRep p = p ↔ p ≤ 491520 ∧ p % 2 ^ (prePack p).2 = 0 := by
  rcases Nat.lt_or_ge 491520 p with hgt | hle
  · have hmax := preRep_le_max p
    omega
  · have hsum := preRep_add_mod (p := p) (by omega)
    omega

/-- R149: the error is below `2^e`, and so below an eighth of the value. -/
theorem preRep_error_bounds {p : Nat} (he : 1 ≤ (prePack p).2) (hp : p ≤ 491520) :
    p - preRep p < 2 ^ (prePack p).2 ∧ 8 * 2 ^ (prePack p).2 ≤ preRep p := by
  constructor
  · have hsum := preRep_add_mod (p := p) (by omega)
    have hmod : p % 2 ^ (prePack p).2 < 2 ^ (prePack p).2 := Nat.mod_lt _ (Nat.two_pow_pos _)
    omega
  · have hm : 8 ≤ (prePack p).1 := (prePack_canonical p).resolve_left (by omega)
    rw [preRep_eq]
    exact Nat.mul_le_mul_right _ hm

/-! ## Packing a packed value -/

/-- R147: a canonical pair is the pack of its own value. -/
theorem prePack_mul_two_pow {m e : Nat} (hm : m ≤ 15) (he : e ≤ 15) (hc : e = 0 ∨ 8 ≤ m) :
    prePack (m * 2 ^ e) = (m, e) := by
  have hlo : e = 0 ∨ 8 * 2 ^ e ≤ m * 2 ^ e := hc.imp_right (Nat.mul_le_mul_right _)
  have hhi : m * 2 ^ e < 16 * 2 ^ e := Nat.mul_lt_mul_of_pos_right (by omega) (Nat.two_pow_pos e)
  rw [prePack_closed, ← exponent_eq_size he hlo (.inl hhi), Nat.mul_div_cancel _ (Nat.two_pow_pos e), Nat.min_eq_right hm]

/-- Any pair's value is representable: its pack has no larger exponent, so that nothing is shifted out (R147). -/
theorem preRep_mul_two_pow {m e : Nat} (hm : m ≤ 15) (he : e ≤ 15) : preRep (m * 2 ^ e) = m * 2 ^ e := by
  have hexp : (prePack (m * 2 ^ e)).2 ≤ e := by
    have hlt : m * 2 ^ e < 2 ^ (4 + e) := by
      rw [Nat.pow_add]
      exact Nat.mul_lt_mul_of_pos_right (Nat.lt_succ_of_le hm) (Nat.two_pow_pos e)
    have hsize : Nat.size (m * 2 ^ e) ≤ 4 + e := Nat.size_le.mpr hlt
    rw [prePack_closed]
    omega
  rw [preRep_eq_self_iff]
  exact ⟨Nat.mul_le_mul hm (Nat.pow_le_pow_right (by decide) he : _ ≤ 2 ^ 15),
    Nat.mod_eq_zero_of_dvd ((Nat.pow_dvd_pow 2 hexp).mul_left m)⟩

/-- R148. -/
theorem prePack_preRep (p : Nat) : prePack (preRep p) = prePack p := by
  obtain ⟨hm, he⟩ := prePack_le p
  rw [preRep_eq, prePack_mul_two_pow hm he (prePack_canonical p)]

theorem canonicalByte_iff {b : Nat} (h : b < 256) : canonicalByte b = true ↔ b / 16 = 0 ∨ 8 ≤ b % 16 := by
  rw [canonicalByte, Bool.or_eq_true, decide_eq_true_iff, decide_eq_true_iff, byteExponent_eq, byteMantissa_eq,
    Nat.mod_eq_of_lt (by omega : b / 16 < 16)]

theorem preValue_of_lt {b : Nat} (h : b < 256) : preValue b = b % 16 * 2 ^ (b / 16) := by
  rw [preValue_eq, Nat.mod_eq_of_lt (by omega : b / 16 < 16)]

/-- R147: a canonical byte's two fields are the pack of its value. -/
theorem prePack_preValue {b : Nat} (h : b < 256) (hc : canonicalByte b = true) : prePack (preValue b) = (b % 16, b / 16) := by
  rw [preValue_of_lt h]
  exact prePack_mul_two_pow (by omega) (by omega) ((canonicalByte_iff h).mp hc)

/-- R147: packing keeps the value of every byte, canonical or not. -/
theorem preRep_preValue {b : Nat} (h : b < 256) : preRep (preValue b) = preValue b := by
  rw [preValue_of_lt h]
  exact preRep_mul_two_pow (by omega) (by omega)

/-! ## Saturation -/

theorem preRep_of_saturated {p : Nat} (h : 491520 ≤ p) : preRep p = 491520 := by
  rw [preRep_eq, prePack_of_saturated h]
  rfl

theorem preByte_of_saturated {p : Nat} (h : 491520 ≤ p) : preByte p = 0xFF := by
  rw [preByte_eq, prePack_of_saturated h]
  rfl

/-! ## The results of PPACK and PUNPACK -/

/-- R152 field by field, on the pair that is packed. -/
theorem ppackResult_eq (a : Nat) : ppackResult a =
    { r0 := BitVec.ofNat 32 ((prePack a).1 * 2 ^ (prePack a).2), r1 := BitVec.ofNat 32 (16 * (prePack a).2 + (prePack a).1)
      w := false, i := false, q := decide ((prePack a).1 * 2 ^ (prePack a).2 ≠ a), s := decide (491520 < a) } := by
  rw [← preRep_eq, ← preByte_eq]
  rfl

/-- R153 field by field. -/
theorem punpackResult_eq (a : Word) : punpackResult a.toNat =
    { r0 := BitVec.ofNat 32 (a.toNat % 256 % 16 * 2 ^ (a.toNat % 256 / 16)), r1 := BitVec.ofNat 32 (a.toNat % 256)
      w := false, i := decide (256 ≤ a.toNat), q := false, s := false } := by
  have hlt : a.toNat < 4294967296 := a.isLt
  have hi : ignFlagPunpack a.toNat = decide (256 ≤ a.toNat) := by
    rw [ignFlagPunpack, packedIgnored_eq, decide_eq_decide]
    omega
  rw [punpackResult, packedOperand_eq, preValue_of_lt (Nat.mod_lt _ (by decide)), hi, zext32, zext32]

end Sys2Proof.Machine

/-! SUPPORT. The obligations about the preamble codec (spec/41_preamble_codec.md). -/

namespace Sys2Proof.Machine

/-- Settles O7: `ppackResult_eq`, with the pack in closed form. -/
theorem ppackPacksEveryCount : Obligations.PpackPacksEveryCount := by
  refine ⟨decodeCmd_encode .ppack, fun s => ?_⟩
  have hexec := exec_eq .ppack s
  rw [cmdResult, ppackResult_eq, prePack_closed] at hexec
  exact hexec

/-- Settles O8: `punpackResult_eq` through `exec_eq`. -/
theorem punpackUnpacksEveryByte : Obligations.PunpackUnpacksEveryByte := by
  refine ⟨decodeCmd_encode .punpack, fun s => ?_⟩
  have hexec := exec_eq .punpack s
  rw [cmdResult, punpackResult_eq] at hexec
  exact hexec

/-- Settles O51: `prePack_closed`, with the division as a shift, and `lt_halved_iff`. -/
theorem packClosedForm : Obligations.PackClosedForm := by
  refine fun p => ⟨?_, lt_halved_iff p⟩
  rw [Nat.shiftRight_eq_div_pow]
  exact prePack_closed p

/-- Settles O52: the four counts are evaluated; the rest is the pack of a byte's value. -/
theorem canonicalBytesAreThePackedOnes : Obligations.CanonicalBytesAreThePackedOnes := by
  refine ⟨fun p => ?_, rfl, rfl, rfl, rfl, fun b hb hc => ?_, fun b hb _ => ?_, by decide, by decide⟩
  · obtain ⟨hm, he⟩ := prePack_le p
    have hclamp : 15 < (halved p).1 → (prePack p).1 = 15 := fun h => by rw [prePack_eq, Nat.min_eq_left h.le]
    exact ⟨hm, he, prePack_canonical p, hclamp, canonicalByte_preByte p⟩
  · have hpack := prePack_preValue hb hc
    exact ⟨hpack, by rw [preByte_eq, hpack, Nat.div_add_mod]⟩
  · exact ⟨canonicalByte_preByte _, by rw [preValue_preByte, preRep_preValue hb]⟩

/-- Settles O53: byte and value are functions of the pair, and the pair is kept. -/
theorem packIsIdempotent : Obligations.PackIsIdempotent := by
  intro p
  have hpack := prePack_preRep p
  refine ⟨(preValue_preByte p).symm, hpack, ?_, ?_⟩
  · rw [preByte_eq, hpack, ← preByte_eq]
  · rw [preRep_eq (preRep p), hpack, ← preRep_eq]

/-- Settles O54: the bounds of the representable value, assembled. -/
theorem representableValueBounds : Obligations.RepresentableValueBounds := by
  intro p
  obtain ⟨hm, he⟩ := prePack_le p
  exact ⟨preRep_le p, preRep_eq p, hm, he, preRep_le_max p, preRep_eq_self_iff p, preRep_error_bounds⟩

/-- Settles O55: the saturated pair, and the clamp's threshold between the two ways to mantissa 15. -/
theorem packSaturates : Obligations.PackSaturates := by
  intro p hp
  have hpack := prePack_of_saturated hp
  have hrep := preRep_of_saturated hp
  refine ⟨hpack, preByte_of_saturated hp, hrep, fun hgt => by rw [hrep]; exact hgt, fun hlt => ?_, (lt_halved_iff p).mpr⟩
  have hmin : min 15 (halved p).1 = 15 := congrArg Prod.fst ((prePack_eq p).symm.trans hpack)
  have hclamp := lt_halved_iff p
  omega

/-- Settles O56: the clamped count and the unbounded one both saturate; the truncated one packs as 0. -/
theorem clampedCountsPackAsUnbounded : Obligations.ClampedCountsPackAsUnbounded := by
  refine ⟨fun p hp => prePack_of_saturated (by omega), fun s p hs hp => ⟨_, exec_eq .ppack s, ?_, ?_⟩,
    fun s hs => ⟨_, exec_eq .ppack s, ?_⟩⟩
  · rw [hs, State.complete_res0, cmdResult, ppackResult_r0_toNat, preRep_of_saturated (by decide),
      preRep_of_saturated (by omega)]
  · rw [hs, State.complete_res1, cmdResult, ppackResult_r1_toNat, preByte_of_saturated (by decide),
      preByte_of_saturated (by omega)]
  · have hzero : ppackResult (2 ^ 32 % 2 ^ 32) = { r0 := 0#32, r1 := 0#32, w := false, i := false, q := false, s := false } := by
      decide
    rw [hs, cmdResult, hzero]
    exact ⟨rfl, rfl⟩

/-- Settles O57: PPACK's RES1 is a byte, so PUNPACK reads all of it, and its value is the representable one. -/
theorem unpackAfterPackGivesSameResults : Obligations.UnpackAfterPackGivesSameResults := by
  intro s
  have hbyte : (ppackResult s.arg.toNat).r1.toNat % 256 = preByte s.arg.toNat := by
    rw [ppackResult_r1_toNat, Nat.mod_eq_of_lt (preByte_lt _)]
  refine ⟨_, _, exec_eq .ppack s, exec_eq .punpack _, BitVec.eq_of_toNat_eq ?_, BitVec.eq_of_toNat_eq ?_⟩
  · calc (punpackResult (ppackResult s.arg.toNat).r1.toNat).r0.toNat
      _ = preValue (preByte s.arg.toNat) := by rw [punpackResult_r0_toNat, hbyte]
      _ = (ppackResult s.arg.toNat).r0.toNat := by rw [preValue_preByte, ppackResult_r0_toNat]
  · calc (punpackResult (ppackResult s.arg.toNat).r1.toNat).r1.toNat
      _ = preByte s.arg.toNat := by rw [punpackResult_r1_toNat, hbyte]
      _ = (ppackResult s.arg.toNat).r1.toNat := (ppackResult_r1_toNat _).symm

end Sys2Proof.Machine

/-! SUPPORT. The two error events of R185: what raises ERR, and what puts an error response on the bus. -/

namespace Sys2Proof.Machine

/-- Only an illegal CMD write raises ERR (R181, R185). -/
theorem AccessEffect.runsIllegal_of_err {a : Access} {s t : State} (h : AccessEffect a s t) (hs : s.err = false)
    (ht : t.err = true) : (Event.access a).runsIllegal := by
  cases h with
  | illegal d c hd ha => exact ⟨d, c, hd, by rw [ha]; rfl⟩
  | status d ha =>
    cases hd : d.getLsbD 0 with
    | true => simp [writeStatus_of_set _ hd] at ht
    | false => simp [writeStatus_of_clear _ hd, hs] at ht
  | error | read | ignored | arg | command => simp [hs] at ht

/-- A step that raises ERR serves an illegal CMD write (R185). -/
theorem step_err_rises {s t : State} (h : step s = .next t) (hs : s.err = false) (ht : t.err = true) :
    ∃ e rest, s.inbox = e :: rest ∧ e.runsIllegal := by
  rcases step_cases h with ⟨-, rfl⟩ | ⟨a, rest, hi, hu⟩ | ⟨e, rest, answer, hi, he, rfl⟩
  · simp [hs] at ht
  · exact ⟨_, rest, hi, hu.runsIllegal_of_err hs ht⟩
  · cases ht

/-- The error responses that a step can leave (R184, R185; log entry 7): the one that stood while the block waits, that
of an access which R54 does not admit, or the platform's to a CMD write that reset cut short. -/
theorem step_error_response {s t : State} {off : Fin 64} (h : step s = .next t) (hr : t.resp = some (.error off)) :
    (s.inbox = [] ∧ s.resp = some (.error off)) ∨
    (∃ a rest, s.inbox = .access a :: rest ∧ a.admitted = false ∧ a.off = off) ∨
    (∃ d rest, s.inbox = .resetDuringCmd d (some (.error off)) :: rest) := by
  rcases step_spec s with ⟨hi, hs⟩ | ⟨a, rest, u, hi, hs, hu⟩ | ⟨rest, hi, hs⟩ | ⟨d, answer, rest, hi, hs⟩ <;>
    rw [hs] at h <;> cases h
  · exact .inl ⟨hi, hr⟩
  · exact .inr (.inl ⟨a, rest, hi, hu.not_admitted_of_error hr⟩)
  · cases hr
  · cases hr
    exact .inr (.inr ⟨d, rest, hi⟩)

end Sys2Proof.Machine

/-! SUPPORT. The obligations about exceptions (spec/60_exceptions.md). -/

namespace Sys2Proof.Machine

/-- Settles O20: `step_err_rises` and `step_error_response`, at the event the step serves. -/
theorem noOtherErrorEvent : Obligations.NoOtherErrorEvent := by
  intro s t e rest hi h
  refine ⟨fun hs ht => ?_, fun off hr => ?_⟩
  · obtain ⟨e', rest', hi', hill⟩ := step_err_rises h hs ht
    cases hi.symm.trans hi'
    exact hill
  · rcases step_error_response h hr with ⟨hi', -⟩ | ⟨a, rest', hi', hadm, hoff⟩ | ⟨d, rest', hi'⟩ <;>
      cases hi.symm.trans hi'
    · exact .inl ⟨a, rfl, hoff, (admitted_eq_false_iff a).mp hadm⟩
    · exact .inr ⟨d, rfl⟩

/-- Settles O21: `State.complete` leaves ERR and ERRCAUSE (R180), and `exists_step`. -/
theorem everyStepCompletes : Obligations.EveryStepCompletes :=
  ⟨fun i s => ⟨_, exec_eq i s, rfl, rfl⟩, exists_step⟩

/-- Settles O17. -/
theorem illegalCommandIsRecordedOnly : Obligations.IllegalCommandIsRecordedOnly :=
  fun s _ _ rest hd => step_illegal s rest hd

end Sys2Proof.Machine

/-! SUPPORT. The two reset steps as equations, and the step that comes after a run over a list of events (R210 to R212,
R216). -/

namespace Sys2Proof.Machine

/-- R210. -/
theorem step_reset {s : State} {rest : List Event} (hi : s.inbox = .reset :: rest) :
    step s = .next { State.reset with inbox := rest } :=
  step_cons s .reset rest hi

/-- R211: a reset during a CMD write differs in the response alone. -/
theorem step_resetDuringCmd {s : State} {d : Word} {answer : Option Response} {rest : List Event}
    (hi : s.inbox = .resetDuringCmd d answer :: rest) :
    step s = .next { State.reset with inbox := rest, resp := answer } :=
  step_cons s (.resetDuringCmd d answer) rest hi

theorem runSteps_then_step {m : Nat} {s t : State} (h : runSteps m s = .next t) : runSteps (m + 1) s = step t :=
  (runSteps_add h 1).trans (runSteps_one t)

/-- Whatever the events queued first are, a run serves them all and stops at none (R62). -/
theorem runSteps_serves {s : State} {before post : List Event} (hi : s.inbox = before ++ post) :
    ∃ t, runSteps before.length s = .next t ∧ t.inbox = post := by
  obtain ⟨t, ht, -, hinbox⟩ := runSteps_keeps (P := fun _ => True) (fun _ _ _ _ => trivial) before.length s trivial
  exact ⟨t, ht, by rw [hinbox, hi, List.drop_left]⟩

/-- R212. -/
theorem runSteps_nil {s : State} (hi : s.inbox = []) (n : Nat) : runSteps n s = .next s := by
  induction n with
  | zero => rfl
  | succ n ih => exact (runSteps_succ (step_nil s hi) n).trans ih

/-- R32, R37: a command gives the same results from any two states with the same ARG. -/
theorem complete_sameResults {s u : State} (h : s.arg = u.arg) (i : Instr) :
    (u.complete i.opcode (cmdResult i u.arg.toNat)).SameResults (s.complete i.opcode (cmdResult i s.arg.toNat)) := by
  rw [h]
  exact ⟨rfl, rfl, rfl, rfl, rfl, rfl, rfl⟩

/-- R216: after events that neither write nor reset ARG, a command gives the results it gives from any state `u` with
the ARG that stood before them. -/
theorem runSteps_command_sameResults {mids rest : List Event} (hmids : ∀ e ∈ mids, ¬ e.writesArg ∧ ¬ e.resets)
    {s u : State} {i : Instr} (hi : s.inbox = mids ++ Event.write 0x04 (encode i) :: rest) (harg : s.arg = u.arg) :
    ∃ t w, runSteps (mids.length + 1) s = .next t ∧ exec i u = .next w ∧ t.inbox = rest ∧ w.SameResults t := by
  obtain ⟨m, hm, hkeep, hinbox⟩ := runSteps_keeps_arg hmids hi
  have hcmd : runSteps (mids.length + 1) s = exec i ((m.accept rest).respond .done) :=
    (runSteps_then_step hm).trans (step_command hinbox)
  exact ⟨_, _, hcmd.trans (exec_eq i _), exec_eq i u, rfl, complete_sameResults (hkeep.trans harg) i⟩

end Sys2Proof.Machine

/-! SUPPORT. The obligations about reset and hazards (spec/70_reset_and_hazards.md). -/

namespace Sys2Proof.Machine

/-- Settles O33: the run reaches the reset (`runSteps_serves`), and `step_reset` does not read the state it finds. -/
theorem nothingPreventsReset : Obligations.NothingPreventsReset := by
  intro s before rest
  obtain ⟨u, hu, hi⟩ := runSteps_serves (s := { s with inbox := before ++ .reset :: rest }) rfl
  exact (runSteps_then_step hu).trans (step_reset hi)

/-- Settles O34: as O33, with `step_resetDuringCmd`. -/
theorem resetAbandonsCommandInProgress : Obligations.ResetAbandonsCommandInProgress := by
  intro s d answer before rest
  obtain ⟨u, hu, hi⟩ := runSteps_serves (s := { s with inbox := before ++ .resetDuringCmd d answer :: rest }) rfl
  exact (runSteps_then_step hu).trans (step_resetDuringCmd hi)

/-- Settles O39. -/
theorem resultsLastUntilNextCommand : Obligations.ResultsLastUntilNextCommand :=
  fun _ _ => step_sameResults

/-- Settles O42: the ARG write or the reset fixes ARG, and `runSteps_command_sameResults` carries it to the command. -/
theorem commandUsesLastArgWrite : Obligations.CommandUsesLastArgWrite := by
  refine ⟨fun s v mids i rest hmids => ?_, fun s mids i rest hmids => ?_, step_write_arg⟩
  · have hwrite := step_write_arg s v (mids ++ Event.write 0x04 (encode i) :: rest)
    obtain ⟨t, w, ht, hw⟩ := runSteps_command_sameResults hmids (u := { State.reset with arg := v })
      (s := { s with inbox := mids ++ Event.write 0x04 (encode i) :: rest, resp := some .done, arg := v }) rfl rfl
    exact ⟨t, w, (runSteps_succ hwrite _).trans ht, hw⟩
  · have hreset := step_reset (s := { s with inbox := .reset :: (mids ++ Event.write 0x04 (encode i) :: rest) }) rfl
    obtain ⟨t, w, ht, hw⟩ := runSteps_command_sameResults hmids (u := State.reset)
      (s := { State.reset with inbox := mids ++ Event.write 0x04 (encode i) :: rest }) rfl rfl
    exact ⟨t, w, (runSteps_succ hreset _).trans ht, hw⟩

/-- Settles O35. -/
theorem waitingChangesNothing : Obligations.WaitingChangesNothing :=
  fun _ n hi => runSteps_nil hi n

end Sys2Proof.Machine
